-- ==== Sys2Proof/Word.lean ====
section
/-! DEFINITION. The words of the zipzap Huffman core: plain names for the bit widths the spec fixes
(00_scope.md R8, R11; 30_encoding.md R70, R71). -/

namespace Sys2Proof

/-- A command word, and the 64-bit value of a response (R70, R73). -/
abbrev Word := BitVec 64

/-- One byte of `BUF` (R30). -/
abbrev Byte := BitVec 8

/-- A symbol in its 21 bits, `SYM_W` (R8, R24). -/
abbrev Symbol := BitVec 21

/-- The 32-bit operand field `b`, and the width of a count (R8, R71). -/
abbrev Word32 := BitVec 32

/-- A finite bit sequence: the abstract value of a Bit Stream, and a code (R25, R29). -/
abbrev Bits := List Bool

end Sys2Proof
end

