-- ==== Sys2Proof/Syntax.lean ====
section
/-! DEFINITION. The 43 commands as syntax, one constructor per row of spec/opcode_table.json
(30_encoding.md R75), with the operands of their format (R71, R72). An operand is held as the field of
the command word it comes from; which values are legal is WellFormed.lean. -/

namespace Sys2Proof

/-- A Bit Stream slot, the operand sub-fields `s` and `t` (R71). -/
inductive Slot where
  | bs0 | bs1
deriving DecidableEq, Repr

/-- The slot a one-bit field names: 0 is BS0, 1 is BS1 (R71). -/
def Slot.ofBit (b : Bool) : Slot := if b then .bs1 else .bs0

/-- The field of a slot (R71). -/
def Slot.bit : Slot → BitVec 1
  | .bs0 => 0#1
  | .bs1 => 1#1

/-- The formats of a command word: which sub-fields it uses (R72). -/
inductive Format where
  | n | s | sb | ss | y | yb | sy | b | c | cb | r
deriving DecidableEq, Repr

/-- The commands (R75), in the order of the opcode map. -/
inductive Instr where
  /-- SYS.RST (R183) -/
  | sysRst
  /-- SYS.RD r (R184) -/
  | sysRd (r : BitVec 8)
  /-- FT.CLR (R93) -/
  | ftClr
  /-- FT.CNT sym (R91) -/
  | ftCnt (sym : Symbol)
  /-- FT.PUT sym, v (R92) -/
  | ftPut (sym : Symbol) (v : Word32)
  /-- FT.SYM idx (R94) -/
  | ftSym (idx : Word32)
  /-- FT.FRQ idx (R95) -/
  | ftFrq (idx : Word32)
  /-- BS.CLR s (R101) -/
  | bsClr (k : Slot)
  /-- BS.APP s, v (R102) -/
  | bsApp (k : Slot) (v : Word32)
  /-- BS.EXT s, t: destination, source (R103) -/
  | bsExt (k j : Slot)
  /-- BS.GET s, idx (R104) -/
  | bsGet (k : Slot) (idx : Word32)
  /-- BS.TOB s (R105) -/
  | bsTob (k : Slot)
  /-- BS.FRB s, v (R107) -/
  | bsFrb (k : Slot) (v : Word32)
  /-- BS.FRBA s (R108) -/
  | bsFrba (k : Slot)
  /-- BS.EQ s, t (R109) -/
  | bsEq (k j : Slot)
  /-- BS.HASH s (R110) -/
  | bsHash (k : Slot)
  /-- BS.RWD s (R111) -/
  | bsRwd (k : Slot)
  /-- BS.NXT s (R112) -/
  | bsNxt (k : Slot)
  /-- BUF.CLR (R175) -/
  | bufClr
  /-- BUF.PUSH byte (R176) -/
  | bufPush (byte : Byte)
  /-- BUF.LD idx (R177) -/
  | bufLd (idx : Word32)
  /-- BUF.ST byte, idx (R178) -/
  | bufSt (byte : Byte) (idx : Word32)
  /-- BUF.TRN v (R179) -/
  | bufTrn (v : Word32)
  /-- TXT.CLR (R180) -/
  | txtClr
  /-- TXT.PUSH sym (R181) -/
  | txtPush (sym : Symbol)
  /-- TXT.LD idx (R182) -/
  | txtLd (idx : Word32)
  /-- HT.INI (R122) -/
  | htIni
  /-- HT.MRG (R123) -/
  | htMrg
  /-- HT.BLD (R124) -/
  | htBld
  /-- HT.DIS (R127) -/
  | htDis
  /-- HT.NDK idx (R128) -/
  | htNdk (idx : Word32)
  /-- HT.NDF idx (R129) -/
  | htNdf (idx : Word32)
  /-- HT.NDL idx (R130) -/
  | htNdl (idx : Word32)
  /-- HT.NDR idx (R131) -/
  | htNdr (idx : Word32)
  /-- CB.DRV (R140) -/
  | cbDrv
  /-- ENC.SYM s, sym (R142) -/
  | encSym (k : Slot) (sym : Symbol)
  /-- ENC.RUN s (R143) -/
  | encRun (k : Slot)
  /-- DEC.RST (R150) -/
  | decRst
  /-- DEC.BIT v (R151) -/
  | decBit (v : Word32)
  /-- DEC.END (R152) -/
  | decEnd
  /-- DEC.RUN s (R153) -/
  | decRun (k : Slot)
  /-- CZ.WR s (R163) -/
  | czWr (k : Slot)
  /-- CZ.RD s (R164) -/
  | czRd (k : Slot)
deriving DecidableEq, Repr

end Sys2Proof
end

