-- ==== Sys2Proof/Machine/Operands.lean ====
section
/-! DEFINITION. The operand checks: the legal range of every operand that has one (30_encoding.md R76
cases c to f), and the reading of a 32-bit operand as a bit (41_bit_stream.md R102). -/

namespace Sys2Proof.Machine

/-- A Unicode scalar value: 0 to 0xD7FF or 0xE000 to 0x10FFFF (R24, R76 c, G2). -/
def isScalar (sym : Symbol) : Bool :=
  sym.toNat ≤ 0xD7FF || (0xE000 ≤ sym.toNat && sym.toNat ≤ 0x10FFFF)

/-- A status register number that exists (R35, R76 d). -/
def regLegal (r : BitVec 8) : Bool := r.toNat ≤ 21

/-- Destination and source of BS.EXT are different slots (R76 e, R103). -/
def slotsDiffer (k j : Slot) : Bool := k != j

/-- A frequency the data model admits (R76 f, R92). -/
def freqLegal (v : Word32) : Bool := v != 0#32

/-- A 32-bit operand read as a bit: none when it is 2 or more (R102, R151, R191). -/
def bitOperand (v : Word32) : Option Bool :=
  if v.toNat > 1 then none else some (v.toNat == 1)

end Sys2Proof.Machine
end

