-- ==== Sys2Proof/WellFormed.lean ====
section
/-! DEFINITION. Which commands are well formed: the operand ranges of 30_encoding.md R76 cases c to f.
A command that is not well formed raises IllegalCommand when it is executed (60_exceptions.md R199
step 4). -/

namespace Sys2Proof

/-- The operands are inside their legal ranges (R76 c to f). -/
def Instr.wellFormed : Instr → Bool
  | .sysRst => true
  | .sysRd r => Machine.regLegal r
  | .ftClr => true
  | .ftCnt sym => Machine.isScalar sym
  | .ftPut sym v => Machine.isScalar sym && Machine.freqLegal v
  | .ftSym _ => true
  | .ftFrq _ => true
  | .bsClr _ => true
  | .bsApp _ _ => true
  | .bsExt k j => Machine.slotsDiffer k j
  | .bsGet _ _ => true
  | .bsTob _ => true
  | .bsFrb _ _ => true
  | .bsFrba _ => true
  | .bsEq _ _ => true
  | .bsHash _ => true
  | .bsRwd _ => true
  | .bsNxt _ => true
  | .bufClr => true
  | .bufPush _ => true
  | .bufLd _ => true
  | .bufSt _ _ => true
  | .bufTrn _ => true
  | .txtClr => true
  | .txtPush sym => Machine.isScalar sym
  | .txtLd _ => true
  | .htIni => true
  | .htMrg => true
  | .htBld => true
  | .htDis => true
  | .htNdk _ => true
  | .htNdf _ => true
  | .htNdl _ => true
  | .htNdr _ => true
  | .cbDrv => true
  | .encSym _ sym => Machine.isScalar sym
  | .encRun _ => true
  | .decRst => true
  | .decBit _ => true
  | .decEnd => true
  | .decRun _ => true
  | .czWr _ => true
  | .czRd _ => true

end Sys2Proof
end

