-- ==== Sys2Proof/Decode.lean ====
section
/-! DEFINITION. Decoding a 64-bit command word, and the encoder (30_encoding.md R70 to R76).

The decoder is the mask-and-match test of R72 (R76 cases a and b); the operand ranges of R76 cases c
to f are decided when the command is executed (R199 step 4), so that a word fixes one `Instr` and an
`Instr` one word. Log entry 9. -/

namespace Sys2Proof

/-- Why a word spells no command by its bits alone (R76). -/
inductive DecodeError where
  /-- its `op` is not one of the 43 opcodes (R76 a) -/
  | undefinedOpcode
  /-- it has a 1 in a must-be-zero bit of its format (R76 b) -/
  | mustBeZero
deriving DecidableEq, Repr

/-- `op = cmd[63:56]` (R70). -/
def opField (w : Word) : BitVec 8 := w.extractLsb' 56 8

/-- `a = cmd[55:32]` (R70). -/
def aField (w : Word) : BitVec 24 := w.extractLsb' 32 24

/-- `b = cmd[31:0]` (R70). -/
def bField (w : Word) : Word32 := w.extractLsb' 0 32

/-- Sub-field `s = a[23]` (R71). -/
def subS (a : BitVec 24) : Slot := Slot.ofBit (a.getLsbD 23)

/-- Sub-field `t = b[0]` (R71). -/
def subT (b : Word32) : Slot := Slot.ofBit (b.getLsbD 0)

/-- Sub-field `sym = a[20:0]` (R71). -/
def subSym (a : BitVec 24) : Symbol := a.extractLsb' 0 21

/-- Sub-field `byte = a[7:0]` (R71). -/
def subByte (a : BitVec 24) : Byte := a.extractLsb' 0 8

/-- Sub-field `r = b[7:0]` (R71). -/
def subR (b : Word32) : BitVec 8 := b.extractLsb' 0 8

/-- The command, when every must-be-zero bit is zero (R76 b). -/
def fits (zero : Bool) (i : Instr) : Except DecodeError Instr :=
  if zero then .ok i else .error .mustBeZero

/-- The must-be-zero bits of each format are zero (R72). -/
def mbzZero (f : Format) (a : BitVec 24) (b : Word32) : Bool :=
  match f with
  | .n => a == 0#24 && b == 0#32
  | .s => a.extractLsb' 0 23 == 0#23 && b == 0#32
  | .sb => a.extractLsb' 0 23 == 0#23
  | .ss => a.extractLsb' 0 23 == 0#23 && b.extractLsb' 1 31 == 0#31
  | .y => a.extractLsb' 21 3 == 0#3 && b == 0#32
  | .yb => a.extractLsb' 21 3 == 0#3
  | .sy => a.extractLsb' 21 2 == 0#2 && b == 0#32
  | .b => a == 0#24
  | .c => a.extractLsb' 8 16 == 0#16 && b == 0#32
  | .cb => a.extractLsb' 8 16 == 0#16
  | .r => a == 0#24 && b.extractLsb' 8 24 == 0#24

/-- The command a word spells, from its three fields (R75). -/
def decodeFields (op : BitVec 8) (a : BitVec 24) (b : Word32) : Except DecodeError Instr :=
  match op.toNat with
  | 0x01 => fits (mbzZero .n a b) .sysRst
  | 0x02 => fits (mbzZero .r a b) (.sysRd (subR b))
  | 0x10 => fits (mbzZero .n a b) .ftClr
  | 0x11 => fits (mbzZero .y a b) (.ftCnt (subSym a))
  | 0x12 => fits (mbzZero .yb a b) (.ftPut (subSym a) b)
  | 0x13 => fits (mbzZero .b a b) (.ftSym b)
  | 0x14 => fits (mbzZero .b a b) (.ftFrq b)
  | 0x20 => fits (mbzZero .s a b) (.bsClr (subS a))
  | 0x21 => fits (mbzZero .sb a b) (.bsApp (subS a) b)
  | 0x22 => fits (mbzZero .ss a b) (.bsExt (subS a) (subT b))
  | 0x23 => fits (mbzZero .sb a b) (.bsGet (subS a) b)
  | 0x24 => fits (mbzZero .s a b) (.bsTob (subS a))
  | 0x25 => fits (mbzZero .sb a b) (.bsFrb (subS a) b)
  | 0x26 => fits (mbzZero .s a b) (.bsFrba (subS a))
  | 0x27 => fits (mbzZero .ss a b) (.bsEq (subS a) (subT b))
  | 0x28 => fits (mbzZero .s a b) (.bsHash (subS a))
  | 0x29 => fits (mbzZero .s a b) (.bsRwd (subS a))
  | 0x2A => fits (mbzZero .s a b) (.bsNxt (subS a))
  | 0x30 => fits (mbzZero .n a b) .bufClr
  | 0x31 => fits (mbzZero .c a b) (.bufPush (subByte a))
  | 0x32 => fits (mbzZero .b a b) (.bufLd b)
  | 0x33 => fits (mbzZero .cb a b) (.bufSt (subByte a) b)
  | 0x34 => fits (mbzZero .b a b) (.bufTrn b)
  | 0x38 => fits (mbzZero .n a b) .txtClr
  | 0x39 => fits (mbzZero .y a b) (.txtPush (subSym a))
  | 0x3A => fits (mbzZero .b a b) (.txtLd b)
  | 0x40 => fits (mbzZero .n a b) .htIni
  | 0x41 => fits (mbzZero .n a b) .htMrg
  | 0x42 => fits (mbzZero .n a b) .htBld
  | 0x43 => fits (mbzZero .n a b) .htDis
  | 0x44 => fits (mbzZero .b a b) (.htNdk b)
  | 0x45 => fits (mbzZero .b a b) (.htNdf b)
  | 0x46 => fits (mbzZero .b a b) (.htNdl b)
  | 0x47 => fits (mbzZero .b a b) (.htNdr b)
  | 0x50 => fits (mbzZero .n a b) .cbDrv
  | 0x51 => fits (mbzZero .sy a b) (.encSym (subS a) (subSym a))
  | 0x52 => fits (mbzZero .s a b) (.encRun (subS a))
  | 0x60 => fits (mbzZero .n a b) .decRst
  | 0x61 => fits (mbzZero .b a b) (.decBit b)
  | 0x62 => fits (mbzZero .n a b) .decEnd
  | 0x63 => fits (mbzZero .s a b) (.decRun (subS a))
  | 0x70 => fits (mbzZero .s a b) (.czWr (subS a))
  | 0x71 => fits (mbzZero .s a b) (.czRd (subS a))
  | _ => .error .undefinedOpcode

/-- The command a word spells, or the reason it spells none by its bits (R72, R75, R76 a and b). -/
def decode (w : Word) : Except DecodeError Instr :=
  decodeFields (opField w) (aField w) (bField w)

/-- The opcode of a command (R75). -/
def Instr.opcode : Instr → BitVec 8
  | .sysRst => 0x01#8
  | .sysRd _ => 0x02#8
  | .ftClr => 0x10#8
  | .ftCnt _ => 0x11#8
  | .ftPut _ _ => 0x12#8
  | .ftSym _ => 0x13#8
  | .ftFrq _ => 0x14#8
  | .bsClr _ => 0x20#8
  | .bsApp _ _ => 0x21#8
  | .bsExt _ _ => 0x22#8
  | .bsGet _ _ => 0x23#8
  | .bsTob _ => 0x24#8
  | .bsFrb _ _ => 0x25#8
  | .bsFrba _ => 0x26#8
  | .bsEq _ _ => 0x27#8
  | .bsHash _ => 0x28#8
  | .bsRwd _ => 0x29#8
  | .bsNxt _ => 0x2A#8
  | .bufClr => 0x30#8
  | .bufPush _ => 0x31#8
  | .bufLd _ => 0x32#8
  | .bufSt _ _ => 0x33#8
  | .bufTrn _ => 0x34#8
  | .txtClr => 0x38#8
  | .txtPush _ => 0x39#8
  | .txtLd _ => 0x3A#8
  | .htIni => 0x40#8
  | .htMrg => 0x41#8
  | .htBld => 0x42#8
  | .htDis => 0x43#8
  | .htNdk _ => 0x44#8
  | .htNdf _ => 0x45#8
  | .htNdl _ => 0x46#8
  | .htNdr _ => 0x47#8
  | .cbDrv => 0x50#8
  | .encSym _ _ => 0x51#8
  | .encRun _ => 0x52#8
  | .decRst => 0x60#8
  | .decBit _ => 0x61#8
  | .decEnd => 0x62#8
  | .decRun _ => 0x63#8
  | .czWr _ => 0x70#8
  | .czRd _ => 0x71#8

/-- The format of a command (R75). -/
def Instr.format : Instr → Format
  | .sysRst => .n
  | .sysRd _ => .r
  | .ftClr => .n
  | .ftCnt _ => .y
  | .ftPut _ _ => .yb
  | .ftSym _ => .b
  | .ftFrq _ => .b
  | .bsClr _ => .s
  | .bsApp _ _ => .sb
  | .bsExt _ _ => .ss
  | .bsGet _ _ => .sb
  | .bsTob _ => .s
  | .bsFrb _ _ => .sb
  | .bsFrba _ => .s
  | .bsEq _ _ => .ss
  | .bsHash _ => .s
  | .bsRwd _ => .s
  | .bsNxt _ => .s
  | .bufClr => .n
  | .bufPush _ => .c
  | .bufLd _ => .b
  | .bufSt _ _ => .cb
  | .bufTrn _ => .b
  | .txtClr => .n
  | .txtPush _ => .y
  | .txtLd _ => .b
  | .htIni => .n
  | .htMrg => .n
  | .htBld => .n
  | .htDis => .n
  | .htNdk _ => .b
  | .htNdf _ => .b
  | .htNdl _ => .b
  | .htNdr _ => .b
  | .cbDrv => .n
  | .encSym _ _ => .sy
  | .encRun _ => .s
  | .decRst => .n
  | .decBit _ => .b
  | .decEnd => .n
  | .decRun _ => .s
  | .czWr _ => .s
  | .czRd _ => .s

/-- The word of an opcode and its two operand fields (R70). -/
def assemble (op : BitVec 8) (a : BitVec 24) (b : Word32) : Word := op ++ a ++ b

/-- Field `a` holding a slot in its bit 23 (R71). -/
def putS (k : Slot) : BitVec 24 := k.bit ++ 0#23

/-- Field `b` holding a second slot in its bit 0 (R71). -/
def putT (j : Slot) : Word32 := 0#31 ++ j.bit

/-- Field `a` holding a symbol (R71). -/
def putSym (sym : Symbol) : BitVec 24 := 0#3 ++ sym

/-- Field `a` holding a slot and a symbol (R71). -/
def putSSym (k : Slot) (sym : Symbol) : BitVec 24 := k.bit ++ 0#2 ++ sym

/-- Field `a` holding a byte (R71). -/
def putByte (byte : Byte) : BitVec 24 := 0#16 ++ byte

/-- Field `b` holding a status register number (R71). -/
def putR (r : BitVec 8) : Word32 := 0#24 ++ r

/-- Fields `a` and `b` of a command's word (R71, R72). -/
def Instr.operands : Instr → BitVec 24 × Word32
  | .sysRst => (0#24, 0#32)
  | .sysRd r => (0#24, putR r)
  | .ftClr => (0#24, 0#32)
  | .ftCnt sym => (putSym sym, 0#32)
  | .ftPut sym v => (putSym sym, v)
  | .ftSym idx => (0#24, idx)
  | .ftFrq idx => (0#24, idx)
  | .bsClr k => (putS k, 0#32)
  | .bsApp k v => (putS k, v)
  | .bsExt k j => (putS k, putT j)
  | .bsGet k idx => (putS k, idx)
  | .bsTob k => (putS k, 0#32)
  | .bsFrb k v => (putS k, v)
  | .bsFrba k => (putS k, 0#32)
  | .bsEq k j => (putS k, putT j)
  | .bsHash k => (putS k, 0#32)
  | .bsRwd k => (putS k, 0#32)
  | .bsNxt k => (putS k, 0#32)
  | .bufClr => (0#24, 0#32)
  | .bufPush byte => (putByte byte, 0#32)
  | .bufLd idx => (0#24, idx)
  | .bufSt byte idx => (putByte byte, idx)
  | .bufTrn v => (0#24, v)
  | .txtClr => (0#24, 0#32)
  | .txtPush sym => (putSym sym, 0#32)
  | .txtLd idx => (0#24, idx)
  | .htIni => (0#24, 0#32)
  | .htMrg => (0#24, 0#32)
  | .htBld => (0#24, 0#32)
  | .htDis => (0#24, 0#32)
  | .htNdk idx => (0#24, idx)
  | .htNdf idx => (0#24, idx)
  | .htNdl idx => (0#24, idx)
  | .htNdr idx => (0#24, idx)
  | .cbDrv => (0#24, 0#32)
  | .encSym k sym => (putSSym k sym, 0#32)
  | .encRun k => (putS k, 0#32)
  | .decRst => (0#24, 0#32)
  | .decBit v => (0#24, v)
  | .decEnd => (0#24, 0#32)
  | .decRun k => (putS k, 0#32)
  | .czWr k => (putS k, 0#32)
  | .czRd k => (putS k, 0#32)

/-- The word of a command (R70, R78). -/
def encode (i : Instr) : Word := assemble i.opcode i.operands.1 i.operands.2

/-- The mask of a format: a 1 at every fixed bit (the table of R72). -/
def Format.mask : Format → Word
  | .n => 0xFFFFFFFFFFFFFFFF#64
  | .s => 0xFF7FFFFFFFFFFFFF#64
  | .sb => 0xFF7FFFFF00000000#64
  | .ss => 0xFF7FFFFFFFFFFFFE#64
  | .y => 0xFFE00000FFFFFFFF#64
  | .yb => 0xFFE0000000000000#64
  | .sy => 0xFF600000FFFFFFFF#64
  | .b => 0xFFFFFFFF00000000#64
  | .c => 0xFFFFFF00FFFFFFFF#64
  | .cb => 0xFFFFFF0000000000#64
  | .r => 0xFFFFFFFFFFFFFF00#64

/-- `match = op << 56` (R72). -/
def matchBits (op : BitVec 8) : Word := op.setWidth 64 <<< 56

/-- The opcode map: opcode and format of the 43 commands, one line per component (R75). -/
def opcodeTable : List (BitVec 8 × Format) :=
  List.flatten [
    [(0x01#8, .n), (0x02#8, .r)],
    [(0x10#8, .n), (0x11#8, .y), (0x12#8, .yb), (0x13#8, .b), (0x14#8, .b)],
    [(0x20#8, .s), (0x21#8, .sb), (0x22#8, .ss), (0x23#8, .sb), (0x24#8, .s), (0x25#8, .sb)],
    [(0x26#8, .s), (0x27#8, .ss), (0x28#8, .s), (0x29#8, .s), (0x2A#8, .s)],
    [(0x30#8, .n), (0x31#8, .c), (0x32#8, .b), (0x33#8, .cb), (0x34#8, .b)],
    [(0x38#8, .n), (0x39#8, .y), (0x3A#8, .b)],
    [(0x40#8, .n), (0x41#8, .n), (0x42#8, .n), (0x43#8, .n)],
    [(0x44#8, .b), (0x45#8, .b), (0x46#8, .b), (0x47#8, .b)],
    [(0x50#8, .n), (0x51#8, .sy), (0x52#8, .s)],
    [(0x60#8, .n), (0x61#8, .b), (0x62#8, .n), (0x63#8, .s)],
    [(0x70#8, .s), (0x71#8, .s)]]

/-- The command word of a table row's bits: `nbits` bits of `w`, the rest zero. The block sees the
64-bit number, whatever byte order a host carries it in (R70). -/
def tableWord (nbits w : Nat) : Word := BitVec.ofNat 64 (w % 2 ^ nbits)

/-- The instruction the decoder reads from a table row's bits. -/
def decodeTableWord (nbits w : Nat) : Option Instr :=
  match decode (tableWord nbits w) with
  | .ok i => some i
  | .error _ => none

end Sys2Proof
end

