-- ==== Sys2Proof/Config.lean ====
section
/-! DEFINITION. What an implementation fixes (00_scope.md R8): the one function the spec leaves open,
and the default and greatest capacities. The capacities of one block are constants held in its state
(registers 18 to 21), so that every statement holds for every legal choice of them. -/

namespace Sys2Proof

/-- `HASHFN` (R8, R110, U1): a total function from bit sequences to 64-bit values of which the spec
says nothing else. A free value: it has no body, so nothing can be proved of it but that equal
streams hash equal. Log entry 7. -/
opaque Config.hashFn : Bits → Word

/-- Default, and upper bound, of `FT_CAP` (R8, D5): `symbol_count` has 2 bytes. -/
def Config.ftCapMax : Nat := 65535

/-- Default, and upper bound, of `BS_CAP`, `BUF_CAP` and `TXT_CAP` (R8, D7, D8, D9): 32-bit lengths. -/
def Config.lenCapMax : Nat := 4294967295

end Sys2Proof
end

