-- ==== Sys2Proof/Machine/State.lean ====
section
/-! DEFINITION. The state of one ZZHC instance (10_state.md R20), plain data, and its reset value (R42).

Every sequence is a list and nothing beyond it (R12, R21); the lengths FTN, LEN0, LEN1, BUFLEN, TXTLEN,
NDN and PQN are the lengths of the lists. A number that never wraps is a `Nat` and its width is an
invariant (Safety.lean, log entry 6); DPOS and FPOS, which wrap, are 32-bit words (R44 e). -/

namespace Sys2Proof.Machine

/-- A Symbol-Frequency Entry (R24). -/
structure Entry where
  /-- the symbol, a Unicode scalar value -/
  sym : Symbol
  /-- its count, never 0 -/
  cnt : Word32
deriving DecidableEq, Repr

/-- A Huffman Node (R27): a leaf has no children, an internal node no symbol. -/
inductive Node where
  /-- kind 0: exactly one symbol and its frequency -/
  | leaf (sym : Symbol) (freq : Nat)
  /-- kind 1: the sum of its children's frequencies, and their node indices -/
  | internal (freq left right : Nat)
deriving DecidableEq, Repr

/-- An element of the priority queue (R28): frequency, insertion index and node index of a root. -/
structure QElem where
  /-- frequency of the tree's root -/
  freq : Nat
  /-- insertion index -/
  seq : Nat
  /-- index in `ND` of the tree's root -/
  node : Nat
deriving DecidableEq, Repr

/-- Tree state `TST` (R33). -/
inductive TreeState where
  | none | building | valid
deriving DecidableEq, Repr

/-- The fault kinds of the block (60_exceptions.md R190). -/
inductive FaultKind where
  | invalidBit | indexOutOfRange | codebookMiss | corruptStream | trailingBits
  | illegalCommand | capacityExceeded
deriving DecidableEq, Repr

/-- The status of a response (30_encoding.md R73); the codes 8 to 14 are never produced (U11). -/
inductive Status where
  /-- 0: the command completed -/
  | ok
  /-- 1 to 7: the command raised this fault -/
  | fault (k : FaultKind)
  /-- 15: the block was already in the fault state -/
  | refused
deriving DecidableEq, Repr

/-- A response `(ST, VAL)` (R73). -/
structure Response where
  /-- `ST` -/
  st : Status
  /-- `VAL` -/
  val : Word
deriving DecidableEq, Repr

/-- The byte buffer memory: byte `k` of the list stands at address `k`, and there is no cell beyond
the length (R12, R21, R30; log entry 11). -/
abbrev Memory := List Byte

/-- Why the MODEL stops although the block would not: the pseudocode of a rule reaches for something
that does not exist, in a state that breaks the invariants R38 to R41. No state a run from reset
reaches raises one (Safety.lean, `State.Inv`). All are safe: the model stops where the spec gives
no meaning. The block's own faults (R190) are NOT these: they are next states. -/
inductive Fault where
  /-- a node index at or above `NDN` is followed: raised by DEC.BIT, DEC.RUN, CB.DRV, ENC.RUN (safe) -/
  | noSuchNode
  /-- the only node of a one-node tree is no leaf: raised by DEC.BIT, DEC.RUN (safe) -/
  | loneNodeNotLeaf
  /-- `PQ` holds fewer than two elements at a merge: raised by HT.MRG, HT.BLD, ENC.RUN, DEC.RUN (safe) -/
  | queueTooShort
  /-- HT.BLD's loop would pass its bound of R220: raised by HT.BLD, ENC.RUN, DEC.RUN (safe) -/
  | buildUnbounded
  /-- the traversal of CB.DRV meets more than `NDN` levels, a cycle: raised by CB.DRV, ENC.RUN (safe) -/
  | treeCyclic
  /-- a leaf or an entry has no place in `CB`: raised by CB.DRV, ENC.SYM, ENC.RUN (safe) -/
  | noSuchCode
deriving DecidableEq, Repr

/-- Why the model gives no meaning. -/
inductive Refusal where
  /-- the instruction of this mnemonic has no meaning yet: raised by `exec` alone, by no arm now (safe) -/
  | notModelled (mnemonic : String)
deriving DecidableEq, Repr

/-- The whole state (R20), the constant capacities (status registers 18 to 21, R35), and the model's
own two lists, the host's input and output (R43; log entries 1 and 2). -/
structure State where
  /-- `FT`, the Frequency Table (R24) -/
  ft : List Entry
  /-- `BS0` (R25), held as its bit sequence -/
  bs0 : Bits
  /-- `BS1` (R25) -/
  bs1 : Bits
  /-- `CUR0` (R26) -/
  cur0 : Nat
  /-- `CUR1` (R26) -/
  cur1 : Nat
  /-- `ND`, the node store (R27) -/
  nd : List Node
  /-- `ROOT` (R27) -/
  root : Nat
  /-- `PQ` (R28), in insertion order: one list for each set (log entry 5) -/
  pq : List QElem
  /-- `NEXTSEQ` (R28) -/
  nextSeq : Nat
  /-- `TST` (R33) -/
  tst : TreeState
  /-- `CB`, the codebook by entry index (R29) -/
  cb : List Bits
  /-- `CVALID` (R29) -/
  cvalid : Bool
  /-- `WALK` (R32) -/
  walk : Nat
  /-- `DPOS` (R32), modulo 2^32 (R44 e) -/
  dpos : Word32
  /-- `BUF` (R30) -/
  buf : Memory
  /-- `TXT` (R31) -/
  txt : List Symbol
  /-- `FAULT` (R34): none is the code 0 -/
  fault : Option FaultKind
  /-- `FPOS` (R34) -/
  fpos : Word32
  /-- `FPOSV` (R34) -/
  fposv : Bool
  /-- `FT_CAP`, constant (R8, R35) -/
  ftCap : Nat
  /-- `BS_CAP`, constant (R8, R35) -/
  bsCap : Nat
  /-- `BUF_CAP`, constant (R8, R35) -/
  bufCap : Nat
  /-- `TXT_CAP`, constant (R8, R35) -/
  txtCap : Nat
  /-- the command words the host has still to present, the next one first (the model's own) -/
  cmds : List Word
  /-- the responses the host has received, oldest first (the model's own) -/
  out : List Response
deriving DecidableEq, Repr

/-- The state right after reset (R42, R210): every sequence empty, every number 0, the capacities at
their defaults (R8), no command presented yet. -/
def State.reset : State where
  ft := []
  bs0 := []
  bs1 := []
  cur0 := 0
  cur1 := 0
  nd := []
  root := 0
  pq := []
  nextSeq := 0
  tst := .none
  cb := []
  cvalid := false
  walk := 0
  dpos := 0#32
  buf := []
  txt := []
  fault := none
  fpos := 0#32
  fposv := false
  ftCap := Config.ftCapMax
  bsCap := Config.lenCapMax
  bufCap := Config.lenCapMax
  txtCap := Config.lenCapMax
  cmds := []
  out := []

end Sys2Proof.Machine
end

