-- ==== Sys2Proof/Machine/Ops.lean ====
section
/-! DEFINITION. The named operations over the state, and how a command ends: completing, raising a fault
(60_exceptions.md R198), being refused (R200), resetting (R183), and the order of checks (R199). -/

namespace Sys2Proof.Machine

/-- The outcome of one command. -/
abbrev Answer := Host.Outcome State Fault Refusal

/-! ## Numbers of a response -/

/-- A number as a 64-bit value, zero-extended (R35, R74). -/
def num (n : Nat) : Word := BitVec.ofNat 64 n

/-- A flag in bit 32 with a datum in the low bits (R74). -/
def flagged (n : Nat) : Word := num (2 ^ 32 + n)

/-- The code of a fault kind (R190). -/
def FaultKind.code : FaultKind → BitVec 4
  | .invalidBit => 1#4
  | .indexOutOfRange => 2#4
  | .codebookMiss => 3#4
  | .corruptStream => 4#4
  | .trailingBits => 5#4
  | .illegalCommand => 6#4
  | .capacityExceeded => 7#4

/-- The 4-bit `ST` of a response (R73). -/
def Status.code : Status → BitVec 4
  | .ok => 0#4
  | .fault k => k.code
  | .refused => 15#4

/-- The code in `TST` (R33). -/
def TreeState.code : TreeState → Nat
  | .none => 0
  | .building => 1
  | .valid => 2

/-- The code in `FAULT` (R34): 0 when there is none. -/
def faultCode : Option FaultKind → Nat
  | none => 0
  | some k => k.code.toNat

/-- Bytes that hold `n` bits (R10). -/
def ceil8 (n : Nat) : Nat := (n + 7) / 8

/-! ## Bit Stream slots (R25, R26) -/

/-- `bits(s)`, the abstract value of a slot. -/
def State.bits (s : State) : Slot → Bits
  | .bs0 => s.bs0
  | .bs1 => s.bs1

/-- `CUR[s]`. -/
def State.cur (s : State) : Slot → Nat
  | .bs0 => s.cur0
  | .bs1 => s.cur1

/-- `LEN[s]`. -/
def State.len (s : State) (k : Slot) : Nat := (s.bits k).length

/-- Writes the bits of a slot. -/
def State.setBits (s : State) (k : Slot) (b : Bits) : State :=
  match k with
  | .bs0 => { s with bs0 := b }
  | .bs1 => { s with bs1 := b }

/-- Writes the cursor of a slot. -/
def State.setCur (s : State) (k : Slot) (n : Nat) : State :=
  match k with
  | .bs0 => { s with cur0 := n }
  | .bs1 => { s with cur1 := n }

/-! ## The byte buffer (R30, R50 to R53) -/

/-- The byte at an address, if the cell exists (R21). -/
def Memory.read (m : Memory) (a : Nat) : Option Byte := m[a]?

/-- Overwrites the byte at an address; an address with no cell is left alone (R21). -/
def Memory.write (m : Memory) (a : Nat) (b : Byte) : Memory := m.set a b

/-- The buffer as cells, address and byte, in rising address order. -/
def Memory.cells (m : Memory) : List Host.Cell := m.zipIdx.map fun p => (p.2, p.1)

/-- The canonical form of the cells: addresses strictly rising. -/
abbrev Memory.wf (m : Memory) : Prop := (m.cells.map Prod.fst).Pairwise (· < ·)

/-- `MemRead(BUF, a, n)`: the big-endian unsigned number of `n` bytes from `a` (R53). -/
def memRead (m : Memory) (a n : Nat) : Nat :=
  ((m.drop a).take n).foldl (fun acc b => acc * 256 + b.toNat) 0

/-- The `n` big-endian bytes that `MemWrite` stores for `v` (R53): byte `k` is
`(v >> (8 x (n - 1 - k))) & 0xFF`. -/
def beBytes (n v : Nat) : List Byte :=
  (List.range n).map fun k => BitVec.ofNat 8 (v >>> (8 * (n - 1 - k)))

/-! ## How a command ends -/

/-- Taking a fault, `raise K(pos)` (R198): FAULT, FPOS modulo 2^32 and FPOSV are written, nothing else
is saved and nothing is vectored. -/
def State.raise (s : State) (k : FaultKind) (pos : Option Nat) : State :=
  { s with
    fault := some k
    fpos := match pos with
      | some p => BitVec.ofNat 32 p
      | none => 0#32
    fposv := pos.isSome }

/-- The way out of the fault state, the reset of SYS.RST (R183, R201, R210): every item of state takes
its reset value; the capacities are the block's parameters and stay (R42); the host's input and output
are not state (R43). -/
def State.powerOn (s : State) : State :=
  { State.reset with
    ftCap := s.ftCap
    bsCap := s.bsCap
    bufCap := s.bufCap
    txtCap := s.txtCap
    cmds := s.cmds
    out := s.out }

/-- Gives the host one response (R73). -/
def State.respond (s : State) (st : Status) (val : Word) : State :=
  { s with out := s.out ++ [⟨st, val⟩] }

/-- What a rule's pseudocode comes to: it runs to its end, or reaches a `raise` with everything
written before it kept (R14, R198), or reaches for something that does not exist. -/
inductive Run (α : Type) where
  /-- ran to the end in this state, with this result -/
  | done (s : State) (a : α)
  /-- reached `raise k(pos)` in this state -/
  | raised (s : State) (k : FaultKind) (pos : Option Nat)
  /-- the pseudocode has no meaning here (the state breaks R38 to R41) -/
  | stuck (f : Fault)
deriving DecidableEq, Repr

/-- One piece of pseudocode after another; the first `raise` ends the command (R14). -/
def Run.bind {α β : Type} (r : Run α) (f : State → α → Run β) : Run β :=
  match r with
  | .done s a => f s a
  | .raised s k pos => .raised s k pos
  | .stuck e => .stuck e

/-- The response of a command that has run: its `RES` with `ST = 0`, or the fault taken and its code
with `VAL = 0` (R73, R198). -/
def Run.finish (r : Run Word) : Answer :=
  match r with
  | .done s v => .next (s.respond .ok v)
  | .raised s k pos => .next ((s.raise k pos).respond (.fault k) 0#64)
  | .stuck e => .fault e

/-- The answer to a word in the fault state (R200): refused, nothing changed. -/
def State.refuse (s : State) : State := s.respond .refused 0#64

/-- A "Requires" line: IllegalCommand when it fails (R15, R196, R199 step 5). -/
def require {α : Type} (c : Bool) (s : State) (body : Run α) : Run α :=
  if c then body else .raised s .illegalCommand none

/-- The order of checks of every command but SYS.RST and SYS.RD (R199): the fault state refuses it
(R200), then the operand ranges, then the Requires line and the pseudocode. -/
def command (operandsLegal : Bool) (body : State → Run Word) (s : State) : Answer :=
  match s.fault with
  | some _ => .next s.refuse
  | none => (require operandsLegal s (body s)).finish

/-- The answer to a word that spells no command (R76 a and b, R199 steps 1 to 3, R200). -/
def illegalWord (s : State) : Answer := command false (fun t => .done t 0#64) s

end Sys2Proof.Machine
end

