-- ==== Sys2Proof/Machine/Packing.lean ====
section
/-! DEFINITION. Bit packing (20_memory.md R54, R55) and the byte-level append of 41_bit_stream.md R100,
which the bit-level append of BitStream.lean is the abstract view of. -/

namespace Sys2Proof.Machine

/-- Byte `k` of `pack(b)`: the sum over `j` in 0..7 with `8k + j < L` of `b[8k + j] x 2^(7 - j)`;
missing bits count as 0 (R55). -/
def packByte (b : Bits) (k : Nat) : Byte :=
  BitVec.ofNat 8 ((List.range 8).map fun j => if b.getD (8 * k + j) false then 2 ^ (7 - j) else 0).sum

/-- `pack(b)`: the bytes of a bit sequence, most significant bit first, zero-padded (R54, R55). -/
def pack (b : Bits) : List Byte := (List.range (ceil8 b.length)).map (packByte b)

/-- The stream bit at index `i` of a byte sequence: byte `i / 8`, word-bit `7 - i % 8` (R25, R54). -/
def byteBit (B : List Byte) (i : Nat) : Bool := (B.getD (i / 8) 0#8).getLsbD (7 - i % 8)

/-- `unpack(B, L)` (R55): the first `L` bits of a byte sequence; padding bits are ignored. -/
def unpack (B : List Byte) (L : Nat) : Bits := (List.range L).map (byteBit B)

/-- The bytes of a slot, `BS[s].bytes = pack(bits(s))` (R25, R55). -/
def State.bytes (s : State) (k : Slot) : List Byte := pack (s.bits k)

/-- `append_bit` on the byte view `(bytes, LEN)` of a slot, line by line as R100 writes it: a new byte
0x00 when `LEN` is a multiple of 8, then the bit ORed in. -/
def appendBytes (B : List Byte) (len : Nat) (v : Bool) : List Byte × Nat :=
  let B1 := if len % 8 = 0 then B ++ [0#8] else B
  let k := len / 8
  let j := 7 - len % 8
  (B1.set k (B1.getD k 0#8 ||| (if v then 1#8 else 0#8) <<< j), len + 1)

end Sys2Proof.Machine
end

