-- ==== Sys2Proof/Machine/BitStream.lean ====
section
/-! DEFINITION. The Bit Stream commands (41_bit_stream.md R100 to R112). -/

namespace Sys2Proof.Machine

/-- `append_bit(s, v)` (R100) in the abstract view: `bits(s) <- bits(s) ++ [v]`. -/
def appendBit (k : Slot) (v : Bool) (s : State) : Run Unit :=
  if s.len k = s.bsCap then .raised s .capacityExceeded none
  else .done (s.setBits k (s.bits k ++ [v])) ()

/-- A multi-bit append: one `append_bit` after another, in order (R100, R103, R142, D38). -/
def appendBits (k : Slot) (bs : Bits) (s : State) : Run Unit :=
  match bs with
  | [] => .done s ()
  | v :: vs => (appendBit k v s).bind fun t _ => appendBits k vs t

/-- Ends a pseudocode with `RES <- LEN[s]`. -/
def thenLen (k : Slot) (r : Run Unit) : Run Word := r.bind fun t _ => .done t (num (t.len k))

/-- Makes the slot the empty stream (the pseudocode of R101). -/
def clearSlot (k : Slot) (s : State) : State := (s.setBits k []).setCur k 0

/-- `from_bytes(s, B, n)` (R106): the byte count must be `ceil8(n)` exactly, then the capacity; padding
bits are dropped, the cursor returns to 0. -/
def fromBytes (k : Slot) (B : List Byte) (n : Nat) (pos : Option Nat) (s : State) : Run Unit :=
  if B.length ≠ ceil8 n then .raised s .corruptStream pos
  else if n > s.bsCap then .raised s .capacityExceeded none
  else .done ((s.setBits k (unpack B n)).setCur k 0) ()

/-- BS.CLR s (R101). -/
def execBsClr (k : Slot) (s : State) : Answer := command true (fun t => .done (clearSlot k t) 0#64) s

/-- The pseudocode of R102: InvalidBit, at the index the bit would have had, before capacity. -/
def appendOperand (k : Slot) (v : Word32) (s : State) : Run Word :=
  match bitOperand v with
  | none => .raised s .invalidBit (some (s.len k))
  | some b => thenLen k (appendBit k b s)

/-- BS.APP s, v (R102). -/
def execBsApp (k : Slot) (v : Word32) (s : State) : Answer := command true (appendOperand k v) s

/-- BS.EXT s, t (R103): the bits of slot `t` appended to slot `s`; `s = t` is IllegalCommand. -/
def execBsExt (k j : Slot) (s : State) : Answer :=
  command (slotsDiffer k j) (fun t => thenLen k (appendBits k (t.bits j) t)) s

/-- The pseudocode of R104. -/
def getBit (k : Slot) (idx : Word32) (s : State) : Run Word :=
  match (s.bits k)[idx.toNat]? with
  | none => .raised s .indexOutOfRange (some idx.toNat)
  | some b => .done s (num b.toNat)

/-- BS.GET s, idx (R104). -/
def execBsGet (k : Slot) (idx : Word32) (s : State) : Answer := command true (getBit k idx) s

/-- The pseudocode of R105: `BUF` is replaced by the slot's bytes. -/
def toBytes (k : Slot) (s : State) : Run Word :=
  if ceil8 (s.len k) > s.bufCap then .raised s .capacityExceeded none
  else .done { s with buf := s.bytes k } (num (s.len k))

/-- BS.TOB s (R105). -/
def execBsTob (k : Slot) (s : State) : Answer := command true (toBytes k) s

/-- BS.FRB s, v (R107): no position for CorruptStream. -/
def execBsFrb (k : Slot) (v : Word32) (s : State) : Answer :=
  command true (fun t => thenLen k (fromBytes k t.buf v.toNat none t)) s

/-- BS.FRBA s (R108): the bit length is `8 x BUFLEN`, a natural number. -/
def execBsFrba (k : Slot) (s : State) : Answer :=
  command true (fun t => thenLen k (fromBytes k t.buf (8 * t.buf.length) none t)) s

/-- BS.EQ s, t (R109): equal length and equal bits. -/
def execBsEq (k j : Slot) (s : State) : Answer :=
  command true (fun t => .done t (num (t.bits k == t.bits j).toNat)) s

/-- BS.HASH s (R110): a function of the bit sequence alone (log entry 7). -/
def execBsHash (k : Slot) (s : State) : Answer :=
  command true (fun t => .done t (Config.hashFn (t.bits k))) s

/-- BS.RWD s (R111). -/
def execBsRwd (k : Slot) (s : State) : Answer :=
  command true (fun t => .done (t.setCur k 0) 0#64) s

/-- The pseudocode of R112: the next bit of the stream as it is now, or 0 at its end. -/
def nextBit (k : Slot) (s : State) : Run Word :=
  match (s.bits k)[s.cur k]? with
  | some b => .done (s.setCur k (s.cur k + 1)) (flagged b.toNat)
  | none => .done s 0#64

/-- BS.NXT s (R112). -/
def execBsNxt (k : Slot) (s : State) : Answer := command true (nextBit k) s

end Sys2Proof.Machine
end

