-- ==== Sys2Proof/Machine/Buffers.lean ====
section
/-! DEFINITION. The buffer and text commands (46_buffers_system.md R175 to R182). -/

namespace Sys2Proof.Machine

/-- BUF.CLR (R175). -/
def execBufClr (s : State) : Answer := command true (fun t => .done { t with buf := [] } 0#64) s

/-- The pseudocode of R176. -/
def pushByte (byte : Byte) (s : State) : Run Word :=
  if s.buf.length = s.bufCap then .raised s .capacityExceeded none
  else .done { s with buf := s.buf ++ [byte] } (num (s.buf.length + 1))

/-- BUF.PUSH byte (R176). -/
def execBufPush (byte : Byte) (s : State) : Answer := command true (pushByte byte) s

/-- The pseudocode of R177: IllegalCommand at or above `BUFLEN` (R52). -/
def loadByte (idx : Word32) (s : State) : Run Word :=
  match s.buf.read idx.toNat with
  | some b => .done s (b.setWidth 64)
  | none => .raised s .illegalCommand none

/-- BUF.LD idx (R177). -/
def execBufLd (idx : Word32) (s : State) : Answer := command true (loadByte idx) s

/-- The pseudocode of R178: the buffer never grows. -/
def storeByte (byte : Byte) (idx : Word32) (s : State) : Run Word :=
  require (idx.toNat < s.buf.length) s (.done { s with buf := s.buf.write idx.toNat byte } 0#64)

/-- BUF.ST byte, idx (R178). -/
def execBufSt (byte : Byte) (idx : Word32) (s : State) : Answer := command true (storeByte byte idx) s

/-- The pseudocode of R179: `v = BUFLEN` is legal. -/
def truncate (v : Word32) (s : State) : Run Word :=
  require (v.toNat ≤ s.buf.length) s (.done { s with buf := s.buf.take v.toNat } 0#64)

/-- BUF.TRN v (R179). -/
def execBufTrn (v : Word32) (s : State) : Answer := command true (truncate v) s

/-- TXT.CLR (R180). -/
def execTxtClr (s : State) : Answer := command true (fun t => .done { t with txt := [] } 0#64) s

/-- Appends one symbol to `TXT` (R153, R181). -/
def pushSymbol (sym : Symbol) (s : State) : Run Word :=
  if s.txt.length = s.txtCap then .raised s .capacityExceeded none
  else .done { s with txt := s.txt ++ [sym] } (num (s.txt.length + 1))

/-- TXT.PUSH sym (R181). -/
def execTxtPush (sym : Symbol) (s : State) : Answer := command (isScalar sym) (pushSymbol sym) s

/-- The pseudocode of R182: IllegalCommand at or above `TXTLEN` (R52). -/
def loadSymbol (idx : Word32) (s : State) : Run Word :=
  match s.txt[idx.toNat]? with
  | some c => .done s (c.setWidth 64)
  | none => .raised s .illegalCommand none

/-- TXT.LD idx (R182). -/
def execTxtLd (idx : Word32) (s : State) : Answer := command true (loadSymbol idx) s

end Sys2Proof.Machine
end

