-- ==== Sys2Proof/Machine/Flags.lean ====
section
/-! DEFINITION. The block's flags TST and CVALID, and the operations that set and clear them with the
state they guard (10_state.md R33, R36; 40_frequency_table.md R90; 42_tree_builder.md R127). The other
two flags, FAULT and FPOSV, are written by `State.raise` alone (R36). -/

namespace Sys2Proof.Machine

/-- The state change of HT.DIS (R127): no tree, no queue, decoder registers 0, `TST <- NONE`. -/
def State.dropTree (s : State) : State :=
  { s with
    tst := .none
    nd := []
    root := 0
    pq := []
    nextSeq := 0
    walk := 0
    dpos := 0#32 }

/-- `ft_touch()` (R90): tree, queue, decoder registers and codebook are emptied. -/
def State.ftTouch (s : State) : State :=
  { s.dropTree with cb := [], cvalid := false }

/-- A write of the Frequency Table: `ft_touch()`, then the new table (R90 to R93). -/
def State.setTable (s : State) (ft : List Entry) : State :=
  { s.ftTouch with ft := ft }

/-- The codebook is valid (R140). -/
def State.setCodebook (s : State) (cb : List Bits) : State :=
  { s with cb := cb, cvalid := true }

/-- The tree is complete with this root (R122, R123): `TST <- VALID`, the walk at the root. -/
def State.treeValid (s : State) (root : Nat) : State :=
  { s with tst := .valid, root := root, walk := root, dpos := 0#32 }

/-- `TST = VALID`, the Requires line of CB.DRV, DEC.RST, DEC.BIT and DEC.END (R36). -/
def State.hasTree (s : State) : Bool := s.tst == .valid

/-- `TST = BUILDING`, the Requires line of HT.MRG (R36, R123). -/
def State.isBuilding (s : State) : Bool := s.tst == .building

end Sys2Proof.Machine
end

