-- ==== Sys2Proof/Machine/FreqTable.lean ====
section
/-! DEFINITION. The Frequency Table commands (40_frequency_table.md R90 to R97). -/

namespace Sys2Proof.Machine

/-- The least index whose entry has the symbol (R91, R141). -/
def findSym (ft : List Entry) (sym : Symbol) : Option Nat := ft.findIdx? fun e => e.sym == sym

/-- Counts one character (the pseudocode of R91): the first entry of the symbol is incremented in
place, an unseen symbol is appended with count 1. -/
def countSymbol (sym : Symbol) (s : State) : Run Word :=
  match findSym s.ft sym with
  | some i =>
    let cnt := (s.ft.getD i ⟨sym, 0#32⟩).cnt
    if cnt == 0xFFFFFFFF#32 then .raised s .capacityExceeded none
    else .done (s.setTable (s.ft.set i ⟨sym, cnt + 1#32⟩)) (num i)
  | none =>
    if s.ft.length = s.ftCap then .raised s .capacityExceeded none
    else .done (s.setTable (s.ft ++ [⟨sym, 1#32⟩])) (num s.ft.length)

/-- Appends one entry as given (the pseudocode of R92): no search, no merge. -/
def putEntry (sym : Symbol) (cnt : Word32) (s : State) : Run Word :=
  if s.ft.length = s.ftCap then .raised s .capacityExceeded none
  else .done (s.setTable (s.ft ++ [⟨sym, cnt⟩])) (num s.ft.length)

/-- Empties the table (the pseudocode of R93). -/
def clearTable (s : State) : State := s.setTable []

/-- FT.CLR (R93). -/
def execFtClr (s : State) : Answer := command true (fun t => .done (clearTable t) 0#64) s

/-- FT.CNT sym (R91). -/
def execFtCnt (sym : Symbol) (s : State) : Answer := command (isScalar sym) (countSymbol sym) s

/-- FT.PUT sym, v (R92). -/
def execFtPut (sym : Symbol) (v : Word32) (s : State) : Answer :=
  command (isScalar sym && freqLegal v) (putEntry sym v) s

/-- Reads entry `idx`; IllegalCommand at or above `FTN` (R52, R94, R95). -/
def readEntry (idx : Word32) (f : Entry → Word) (s : State) : Run Word :=
  match s.ft[idx.toNat]? with
  | some e => .done s (f e)
  | none => .raised s .illegalCommand none

/-- FT.SYM idx (R94). -/
def execFtSym (idx : Word32) (s : State) : Answer :=
  command true (readEntry idx fun e => e.sym.setWidth 64) s

/-- FT.FRQ idx (R95). -/
def execFtFrq (idx : Word32) (s : State) : Answer :=
  command true (readEntry idx fun e => e.cnt.setWidth 64) s

end Sys2Proof.Machine
end

