-- ==== Sys2Proof/Machine/Utf8.lean ====
section
/-! DEFINITION. UTF-8 (45_container.md R162, G1): the encoding of a symbol and its inverse. -/

namespace Sys2Proof.Machine

/-- A continuation byte `0x80 | c[lo+5:lo]` (R162). -/
def contByte (c : Symbol) (lo : Nat) : Byte := 0x80#8 ||| (c.extractLsb' lo 6).setWidth 8

/-- `utf8(c)` (R162): one to four bytes, by the range `c` lies in. -/
def utf8 (c : Symbol) : List Byte :=
  if c.toNat ≤ 0x7F then [c.extractLsb' 0 8]
  else if c.toNat ≤ 0x7FF then [0xC0#8 ||| (c.extractLsb' 6 5).setWidth 8, contByte c 0]
  else if c.toNat ≤ 0xFFFF then
    [0xE0#8 ||| (c.extractLsb' 12 4).setWidth 8, contByte c 6, contByte c 0]
  else
    [0xF0#8 ||| (c.extractLsb' 18 3).setWidth 8, contByte c 12, contByte c 6, contByte c 0]

/-- The one value a byte sequence of this length could be the UTF-8 form of: the payload bits of its
bytes joined. -/
def utf8Candidate (U : List Byte) : Option Symbol :=
  match U with
  | [a] => some (a.setWidth 21)
  | [a, b] => some ((a.extractLsb' 0 5 ++ b.extractLsb' 0 6).setWidth 21)
  | [a, b, c] => some ((a.extractLsb' 0 4 ++ b.extractLsb' 0 6 ++ c.extractLsb' 0 6).setWidth 21)
  | [a, b, c, d] =>
    some ((a.extractLsb' 0 3 ++ b.extractLsb' 0 6 ++ c.extractLsb' 0 6 ++ d.extractLsb' 0 6).setWidth 21)
  | _ => none

/-- `utf8_decode(U)` (R162): the scalar value `c` with `utf8(c) = U`, if there is one. -/
def utf8Decode (U : List Byte) : Option Symbol :=
  match utf8Candidate U with
  | some c => if isScalar c && utf8 c == U then some c else none
  | none => none

end Sys2Proof.Machine
end

