-- ==== Sys2Proof/Machine/Container.lean ====
section
/-! DEFINITION. The Compressed File (.zz): its layout, the writer CZ.WR and the reader CZ.RD
(45_container.md R160 to R164). -/

namespace Sys2Proof.Machine

/-- The bytes of one entry (R160): `symbol_byte_len`, `symbol_bytes`, `frequency`. -/
def entryBytes (e : Entry) : List Byte :=
  beBytes 2 (utf8 e.sym).length ++ utf8 e.sym ++ beBytes 4 e.cnt.toNat

/-- The image of a table and a bit sequence (R160, R163): `symbol_count`, the entries in order,
`bit_length`, `payload`, back to back. -/
def fileImage (ft : List Entry) (bits : Bits) : List Byte :=
  beBytes 2 ft.length ++ ft.flatMap entryBytes ++ beBytes 4 bits.length ++ pack bits

/-- `size` of R163. -/
def fileSize (ft : List Entry) (bits : Bits) : Nat :=
  2 + (ft.map fun e => 2 + (utf8 e.sym).length + 4).sum + 4 + ceil8 bits.length

/-- The pseudocode of R163: `BUF` is replaced whole. -/
def writeFile (k : Slot) (s : State) : Run Word :=
  let size := fileSize s.ft (s.bits k)
  if size > s.bufCap then .raised s .capacityExceeded none
  else .done { s with buf := fileImage s.ft (s.bits k) } (num size)

/-- CZ.WR s (R163). -/
def execCzWr (k : Slot) (s : State) : Answer := command true (writeFile k) s

/-- `need(n)` of R164 at offset `p`: a short read is CorruptStream at `p`. -/
def need (n p : Nat) (s : State) : Run Unit :=
  if s.buf.length - p < n then .raised s .corruptStream (some p) else .done s ()

/-- One pass of the loop of R164: reads the entry at offset `p` and appends it; the result is the offset
after it. Every fault has the offset of its field. -/
def readFileEntry (p : Nat) (s : State) : Run Nat :=
  (need 2 p s).bind fun s _ =>
  let l := memRead s.buf p 2
  if l < 1 ∨ l > 4 then .raised s .corruptStream (some p)
  else
    (need l (p + 2) s).bind fun s _ =>
    match utf8Decode ((s.buf.drop (p + 2)).take l) with
    | none => .raised s .corruptStream (some (p + 2))
    | some sym =>
      (need 4 (p + 2 + l) s).bind fun s _ =>
      let f := memRead s.buf (p + 2 + l) 4
      if f = 0 then .raised s .corruptStream (some (p + 2 + l))
      else (putEntry sym (BitVec.ofNat 32 f) s).bind fun s _ => .done s (p + 2 + l + 4)

/-- `repeat n times` of R164. -/
def readFileEntries (n p : Nat) (s : State) : Run Nat :=
  match n with
  | 0 => .done s p
  | m + 1 => (readFileEntry p s).bind fun t q => readFileEntries m q t

/-- The pseudocode of R164. The table is cleared after `symbol_count` has been read. -/
def readFile (k : Slot) (s : State) : Run Word :=
  (need 2 0 s).bind fun s _ =>
  (readFileEntries (memRead s.buf 0 2) 2 (clearTable s)).bind fun s p =>
  (need 4 p s).bind fun s _ =>
  (fromBytes k (s.buf.drop (p + 4)) (memRead s.buf p 4) (some (p + 4)) s).bind fun s _ =>
  .done s (num (s.ft.length * 2 ^ 32 + s.len k))

/-- CZ.RD s (R164). -/
def execCzRd (k : Slot) (s : State) : Answer := command true (readFile k) s

end Sys2Proof.Machine
end

