-- ==== Sys2Proof/Machine/TreeBuilder.lean ====
section
/-! DEFINITION. The Huffman Tree Builder commands (42_tree_builder.md R120 to R131). -/

namespace Sys2Proof.Machine

/-- The queue order (R121): lower frequency first, on equal frequency the lower insertion index. -/
def QElem.before (x y : QElem) : Bool :=
  x.freq < y.freq || (x.freq == y.freq && x.seq < y.seq)

/-- `extract_min(PQ)` (R121): the element that comes before all others, and the rest of the queue in
its own order. -/
def extractMin (q : List QElem) : Option (QElem × List QElem) :=
  match q with
  | [] => none
  | x :: xs =>
    match extractMin xs with
    | none => some (x, [])
    | some (m, rest) => if x.before m then some (x, xs) else some (m, x :: rest)

/-- The leaves of the entries, in entry order (R122). -/
def leaves (ft : List Entry) : List Node := ft.map fun e => .leaf e.sym e.cnt.toNat

/-- The queue after the first insertions: leaf `i` with insertion index `i` (R122). -/
def firstQueue (ft : List Entry) : List QElem := ft.zipIdx.map fun p => ⟨p.1.cnt.toNat, p.2, p.2⟩

/-- The state change of HT.INI (R122). -/
def initTree (s : State) : State :=
  { s with
    nd := leaves s.ft
    pq := firstQueue s.ft
    nextSeq := s.ft.length
    walk := 0
    dpos := 0#32
    root := 0
    tst := if s.ft.length ≥ 2 then .building else .valid }

/-- Two trees become one (R123): the new internal node has A's root left and B's root right, and enters
the queue with the next insertion index. -/
def combine (a b : QElem) (rest : List QElem) (s : State) : State :=
  { s with
    nd := s.nd ++ [.internal (a.freq + b.freq) a.node b.node]
    pq := rest ++ [⟨a.freq + b.freq, s.nextSeq, s.nd.length⟩]
    nextSeq := s.nextSeq + 1 }

/-- One merge step (the pseudocode of R123); at the last merge the tree becomes valid. -/
def mergeStep (s : State) : Run Word :=
  match extractMin s.pq with
  | none => .stuck .queueTooShort
  | some (a, q1) =>
    match extractMin q1 with
    | none => .stuck .queueTooShort
    | some (b, q2) =>
      let t := combine a b q2 s
      let u := if t.pq.length = 1 then t.treeValid s.nd.length else t
      .done u (num u.pq.length)

/-- `while TST = BUILDING: HT.MRG` (R124), for at most `n` passes; R220 bounds them by `FTN - 1`. -/
def mergeLoop (n : Nat) (s : State) : Run Unit :=
  match n with
  | 0 => if s.isBuilding then .stuck .buildUnbounded else .done s ()
  | m + 1 => if s.isBuilding then (mergeStep s).bind fun t _ => mergeLoop m t else .done s ()

/-- The state change of HT.BLD (R124): HT.INI, then the merges. -/
def buildTree (s : State) : Run Unit := mergeLoop (s.ft.length - 1) (initTree s)

/-- HT.INI (R122). -/
def execHtIni (s : State) : Answer :=
  command true (fun t => .done (initTree t) (num (initTree t).pq.length)) s

/-- HT.MRG (R123). -/
def execHtMrg (s : State) : Answer := command true (fun t => require t.isBuilding t (mergeStep t)) s

/-- HT.BLD (R124). -/
def execHtBld (s : State) : Answer :=
  command true (fun t => (buildTree t).bind fun u _ => .done u (num u.nd.length)) s

/-- HT.DIS (R127). -/
def execHtDis (s : State) : Answer := command true (fun t => .done t.dropTree 0#64) s

/-- Reads a field of node `idx`; IllegalCommand at or above `NDN`, and where the node has no such field
(R52, R128 to R131). -/
def readNode (idx : Word32) (f : Node → Option Word) (s : State) : Run Word :=
  match s.nd[idx.toNat]? with
  | none => .raised s .illegalCommand none
  | some nd =>
    match f nd with
    | some v => .done s v
    | none => .raised s .illegalCommand none

/-- Kind in bit 32 and the symbol of a leaf (R128). -/
def Node.kindSym : Node → Option Word
  | .leaf sym _ => some (sym.setWidth 64)
  | .internal _ _ _ => some (flagged 0)

/-- The frequency of a node (R27). -/
def Node.freq : Node → Nat
  | .leaf _ f => f
  | .internal f _ _ => f

/-- The left child, of an internal node only (R130). -/
def Node.leftChild : Node → Option Word
  | .leaf _ _ => none
  | .internal _ l _ => some (num l)

/-- The right child, of an internal node only (R131). -/
def Node.rightChild : Node → Option Word
  | .leaf _ _ => none
  | .internal _ _ r => some (num r)

/-- HT.NDK idx (R128). -/
def execHtNdk (idx : Word32) (s : State) : Answer := command true (readNode idx Node.kindSym) s

/-- HT.NDF idx (R129). -/
def execHtNdf (idx : Word32) (s : State) : Answer :=
  command true (readNode idx fun nd => some (num nd.freq)) s

/-- HT.NDL idx (R130). -/
def execHtNdl (idx : Word32) (s : State) : Answer := command true (readNode idx Node.leftChild) s

/-- HT.NDR idx (R131). -/
def execHtNdr (idx : Word32) (s : State) : Answer := command true (readNode idx Node.rightChild) s

end Sys2Proof.Machine
end

