-- ==== Sys2Proof/Machine/Decoder.lean ====
section
/-! DEFINITION. The Decoder commands (44_decoder.md R150 to R153). -/

namespace Sys2Proof.Machine

/-- The state change of DEC.RST (R150). -/
def walkToRoot (s : State) : State := { s with walk := s.root, dpos := 0#32 }

/-- One bit is consumed and the walk stands at `w`; DPOS is modulo 2^32 (R151, R44 e). -/
def consumeBit (w : Nat) (s : State) : State := { s with walk := w, dpos := s.dpos + 1#32 }

/-- One step of the walk in a tree of two or more nodes (R151). -/
def walkStep (v : Bool) (s : State) : Run (Option Symbol) :=
  match s.nd[s.walk]? with
  | none => .stuck .noSuchNode
  | some (.leaf _ _) => .raised s .corruptStream (some s.dpos.toNat)
  | some (.internal _ l r) =>
    let c := if v then r else l
    match s.nd[c]? with
    | none => .stuck .noSuchNode
    | some (.leaf sym _) => .done (consumeBit s.root s) (some sym)
    | some (.internal _ _ _) => .done (consumeBit c s) none

/-- `dec_bit(v)` for a bit (R151): the emitted symbol, or none. The empty tree emits nothing, the
one-node tree its symbol whatever the bit is. -/
def decodeBit (v : Bool) (s : State) : Run (Option Symbol) :=
  if s.nd.length = 0 then .done (consumeBit s.walk s) none
  else if s.nd.length = 1 then
    match (s.nd[0]? : Option Node) with
    | some (.leaf sym _) => .done (consumeBit s.walk s) (some sym)
    | _ => .stuck .loneNodeNotLeaf
  else walkStep v s

/-- `RES` of DEC.BIT: `2^32 + sym` if a symbol was emitted, else 0 (R74, R151). -/
def emitted (e : Option Symbol) : Word :=
  match e with
  | some sym => flagged sym.toNat
  | none => 0#64

/-- The pseudocode of R151: InvalidBit at `DPOS` first. -/
def decodeOperand (v : Word32) (s : State) : Run Word :=
  match bitOperand v with
  | none => .raised s .invalidBit (some s.dpos.toNat)
  | some b => (decodeBit b s).bind fun t e => .done t (emitted e)

/-- The pseudocode of R152. -/
def checkEnd (s : State) : Run Unit :=
  if s.nd.length ≥ 2 ∧ s.walk ≠ s.root then .raised s .trailingBits (some s.dpos.toNat)
  else .done s ()

/-- Appends an emitted symbol to `TXT` (R153). -/
def emit (e : Option Symbol) (s : State) : Run Unit :=
  match e with
  | none => .done s ()
  | some sym => (pushSymbol sym s).bind fun t _ => .done t ()

/-- The loop of R153: every bit walked, every emitted symbol appended to `TXT`. -/
def decodeBits (bs : Bits) (s : State) : Run Unit :=
  match bs with
  | [] => .done s ()
  | v :: vs =>
    (decodeBit v s).bind fun t e => (emit e t).bind fun u _ => decodeBits vs u

/-- The pseudocode of R153: build, empty `TXT`, decode, check the end, discard the tree. -/
def decodeRun (k : Slot) (s : State) : Run Word :=
  (buildTree s).bind fun s1 _ =>
  (decodeBits (s.bits k) { s1 with txt := [] }).bind fun s2 _ =>
  (checkEnd s2).bind fun s3 _ =>
  .done s3.dropTree (num s3.txt.length)

/-- DEC.RST (R150). -/
def execDecRst (s : State) : Answer :=
  command true (fun t => require t.hasTree t (.done (walkToRoot t) 0#64)) s

/-- DEC.BIT v (R151). -/
def execDecBit (v : Word32) (s : State) : Answer :=
  command true (fun t => require t.hasTree t (decodeOperand v t)) s

/-- DEC.END (R152). -/
def execDecEnd (s : State) : Answer :=
  command true (fun t => require t.hasTree t ((checkEnd t).bind fun u _ => .done u 0#64)) s

/-- DEC.RUN s (R153). -/
def execDecRun (k : Slot) (s : State) : Answer := command true (decodeRun k) s

end Sys2Proof.Machine
end

