-- ==== Sys2Proof/Machine/Encoder.lean ====
section
/-! DEFINITION. The Encoder commands (43_encoder.md R140 to R143). -/

namespace Sys2Proof.Machine

/-- `visit(k, path)` (R140): at a leaf the path becomes the code of its entry, at an internal node left
with 0, then right with 1. The bound is the number of levels left; a tree of `n` nodes has at most `n`. -/
def visit (nd : List Node) (bound k : Nat) (path : Bits) (cb : List Bits) : Except Fault (List Bits) :=
  match bound with
  | 0 => .error .treeCyclic
  | m + 1 =>
    match nd[k]? with
    | none => .error .noSuchNode
    | some (.leaf _ _) => if k < cb.length then .ok (cb.set k path) else .error .noSuchCode
    | some (.internal _ l r) =>
      match visit nd m l (path ++ [false]) cb with
      | .error e => .error e
      | .ok cb1 => visit nd m r (path ++ [true]) cb1

/-- The codebook of the tree (R140); a one-node tree gives its symbol the code `[0]`. -/
def codesOf (s : State) : Except Fault (List Bits) :=
  if s.nd.length = 0 then .ok []
  else if s.nd.length = 1 then .ok [[false]]
  else visit s.nd s.nd.length s.root [] (List.replicate s.ft.length [])

/-- The state change of CB.DRV (R140). -/
def deriveCodebook (s : State) : Run Unit :=
  match codesOf s with
  | .error e => .stuck e
  | .ok cb => .done (s.setCodebook cb) ()

/-- CB.DRV (R140). -/
def execCbDrv (s : State) : Answer :=
  command true
    (fun t => require t.hasTree t ((deriveCodebook t).bind fun u _ => .done u (num u.ft.length))) s

/-- `enc_sym(s, sym, pos)` (R142): the code of the first entry with the symbol (R141), bit by bit. -/
def encodeSymbol (k : Slot) (sym : Symbol) (pos : Option Nat) (s : State) : Run Unit :=
  match findSym s.ft sym with
  | none => .raised s .codebookMiss pos
  | some i =>
    match s.cb[i]? with
    | none => .stuck .noSuchCode
    | some c => appendBits k c s

/-- ENC.SYM s, sym (R142): no position for CodebookMiss. -/
def execEncSym (k : Slot) (sym : Symbol) (s : State) : Answer :=
  command (isScalar sym)
    (fun t => require t.cvalid t (thenLen k (encodeSymbol k sym none t))) s

/-- FT.CNT of every character of a text, in order (R96, R143). -/
def countText (text : List Symbol) (s : State) : Run Unit :=
  match text with
  | [] => .done s ()
  | c :: cs => (countSymbol c s).bind fun t _ => countText cs t

/-- `enc_sym` of every character of a text, in order, with its text index as position (R143). -/
def encodeText (k : Slot) (text : List Symbol) (i : Nat) (s : State) : Run Unit :=
  match text with
  | [] => .done s ()
  | c :: cs => (encodeSymbol k c (some i) s).bind fun t _ => encodeText k cs (i + 1) t

/-- The pseudocode of R143: count, build, derive, clear the slot, encode, discard the tree. -/
def encodeRun (k : Slot) (s : State) : Run Word :=
  (countText s.txt (clearTable s)).bind fun s1 _ =>
  (buildTree s1).bind fun s2 _ =>
  (deriveCodebook s2).bind fun s3 _ =>
  (encodeText k s.txt 0 (clearSlot k s3)).bind fun s4 _ =>
  .done s4.dropTree (num (s4.len k))

/-- ENC.RUN s (R143). -/
def execEncRun (k : Slot) (s : State) : Answer := command true (encodeRun k) s

end Sys2Proof.Machine
end

