-- ==== Sys2Proof/Machine/System.lean ====
section
/-! DEFINITION. The system commands SYS.RST and SYS.RD (46_buffers_system.md R183, R184), the two the
fault state accepts (60_exceptions.md R200). -/

namespace Sys2Proof.Machine

/-- SYS.RST (R183): reset, in the fault state too. -/
def execSysRst (s : State) : Answer := .next (s.powerOn.respond .ok 0#64)

/-- The value of a status register (the table of R35). -/
def readRegister (s : State) (r : BitVec 8) : Option Word :=
  match r.toNat with
  | 0 => some (num (faultCode s.fault))
  | 1 => some (num s.fpos.toNat)
  | 2 => some (num s.fposv.toNat)
  | 3 => some (num s.ft.length)
  | 4 => some (num s.bs0.length)
  | 5 => some (num s.bs1.length)
  | 6 => some (num s.cur0)
  | 7 => some (num s.cur1)
  | 8 => some (num s.buf.length)
  | 9 => some (num s.txt.length)
  | 10 => some (num s.nd.length)
  | 11 => some (num s.root)
  | 12 => some (num s.tst.code)
  | 13 => some (num s.cvalid.toNat)
  | 14 => some (num s.pq.length)
  | 15 => some (num s.nextSeq)
  | 16 => some (num s.walk)
  | 17 => some (num s.dpos.toNat)
  | 18 => some (num s.ftCap)
  | 19 => some (num s.bsCap)
  | 20 => some (num s.bufCap)
  | 21 => some (num s.txtCap)
  | _ => none

/-- SYS.RD r (R184): accepted in the fault state; a number above 21 is IllegalCommand outside it and
refused inside it. -/
def execSysRd (r : BitVec 8) (s : State) : Answer :=
  match readRegister s r with
  | some v => .next (s.respond .ok v)
  | none => illegalWord s

end Sys2Proof.Machine
end

