-- ==== Sys2Proof/Machine/Dispatch.lean ====
section
/-! DEFINITION. One arm per command (30_encoding.md R75), each one call of its meaning. -/

namespace Sys2Proof.Machine

def exec (i : Instr) (s : State) : Host.Outcome State Fault Refusal :=
  match i with
  | .sysRst => Sys2Proof.Machine.execSysRst s
  | .sysRd r => Sys2Proof.Machine.execSysRd r s
  | .ftClr => Sys2Proof.Machine.execFtClr s
  | .ftCnt sym => Sys2Proof.Machine.execFtCnt sym s
  | .ftPut sym v => Sys2Proof.Machine.execFtPut sym v s
  | .ftSym idx => Sys2Proof.Machine.execFtSym idx s
  | .ftFrq idx => Sys2Proof.Machine.execFtFrq idx s
  | .bsClr k => Sys2Proof.Machine.execBsClr k s
  | .bsApp k v => Sys2Proof.Machine.execBsApp k v s
  | .bsExt k j => Sys2Proof.Machine.execBsExt k j s
  | .bsGet k idx => Sys2Proof.Machine.execBsGet k idx s
  | .bsTob k => Sys2Proof.Machine.execBsTob k s
  | .bsFrb k v => Sys2Proof.Machine.execBsFrb k v s
  | .bsFrba k => Sys2Proof.Machine.execBsFrba k s
  | .bsEq k j => Sys2Proof.Machine.execBsEq k j s
  | .bsHash k => Sys2Proof.Machine.execBsHash k s
  | .bsRwd k => Sys2Proof.Machine.execBsRwd k s
  | .bsNxt k => Sys2Proof.Machine.execBsNxt k s
  | .bufClr => Sys2Proof.Machine.execBufClr s
  | .bufPush byte => Sys2Proof.Machine.execBufPush byte s
  | .bufLd idx => Sys2Proof.Machine.execBufLd idx s
  | .bufSt byte idx => Sys2Proof.Machine.execBufSt byte idx s
  | .bufTrn v => Sys2Proof.Machine.execBufTrn v s
  | .txtClr => Sys2Proof.Machine.execTxtClr s
  | .txtPush sym => Sys2Proof.Machine.execTxtPush sym s
  | .txtLd idx => Sys2Proof.Machine.execTxtLd idx s
  | .htIni => Sys2Proof.Machine.execHtIni s
  | .htMrg => Sys2Proof.Machine.execHtMrg s
  | .htBld => Sys2Proof.Machine.execHtBld s
  | .htDis => Sys2Proof.Machine.execHtDis s
  | .htNdk idx => Sys2Proof.Machine.execHtNdk idx s
  | .htNdf idx => Sys2Proof.Machine.execHtNdf idx s
  | .htNdl idx => Sys2Proof.Machine.execHtNdl idx s
  | .htNdr idx => Sys2Proof.Machine.execHtNdr idx s
  | .cbDrv => Sys2Proof.Machine.execCbDrv s
  | .encSym k sym => Sys2Proof.Machine.execEncSym k sym s
  | .encRun k => Sys2Proof.Machine.execEncRun k s
  | .decRst => Sys2Proof.Machine.execDecRst s
  | .decBit v => Sys2Proof.Machine.execDecBit v s
  | .decEnd => Sys2Proof.Machine.execDecEnd s
  | .decRun k => Sys2Proof.Machine.execDecRun k s
  | .czWr k => Sys2Proof.Machine.execCzWr k s
  | .czRd k => Sys2Proof.Machine.execCzRd k s

end Sys2Proof.Machine
end

