-- ==== Sys2Proof/Machine/Step.lean ====
section
/-! DEFINITION. One step of the machine: the block takes the next command word the host presents and
executes it as one atomic transition (00_scope.md R3, 20_memory.md R60). -/

namespace Sys2Proof.Machine

/-- The block executes one command word (R199): what it spells, or IllegalCommand. -/
def execWord (w : Word) (s : State) : Answer :=
  match decode w with
  | .ok i => exec i s
  | .error _ => illegalWord s

/-- One step: the next word is taken from the host's sequence and executed. When the host presents
none, nothing happens (R221; log entry 1). -/
def step (s : State) : Host.Outcome State Fault Refusal :=
  match s.cmds with
  | [] => .next s
  | w :: rest => execWord w { s with cmds := rest }

/-- The host presents this word next. -/
def State.withFetchWord (s : State) (nbits w : Nat) : State :=
  { s with cmds := tableWord nbits w :: s.cmds }

end Sys2Proof.Machine
end

