-- ==== Sys2Proof/Safety.lean ====
section
/-! DEFINITION. What holds between commands (10_state.md R38 to R41 and 00_scope.md R8), as predicates on
the state, and what a safe run is: the model never stops, and no fault was taken (70_reset R221). -/

namespace Sys2Proof.Machine

/-- The capacities are in their legal ranges (R8). -/
abbrev State.CapsOk (s : State) : Prop :=
  (1 ≤ s.ftCap ∧ s.ftCap ≤ Config.ftCapMax) ∧ (1 ≤ s.bsCap ∧ s.bsCap ≤ Config.lenCapMax) ∧
  (1 ≤ s.bufCap ∧ s.bufCap ≤ Config.lenCapMax) ∧ (1 ≤ s.txtCap ∧ s.txtCap ≤ Config.lenCapMax)

/-- Frequency Table invariants (R38): within capacity, counts at least 1, scalar values. -/
abbrev State.TableOk (s : State) : Prop :=
  s.ft.length ≤ s.ftCap ∧ ∀ e ∈ s.ft, e.cnt ≠ 0#32 ∧ isScalar e.sym = true

/-- Bit Stream invariants (R39): within capacity, cursor at most the length. The byte clauses hold of
`pack` for every bit sequence. -/
abbrev State.StreamsOk (s : State) : Prop :=
  (s.bs0.length ≤ s.bsCap ∧ s.cur0 ≤ s.bs0.length) ∧ (s.bs1.length ≤ s.bsCap ∧ s.cur1 ≤ s.bs1.length)

/-- `BUF` and `TXT` within capacity, `TXT` of scalar values (R20, R30, R31). -/
abbrev State.SpacesOk (s : State) : Prop :=
  s.buf.length ≤ s.bufCap ∧ s.txt.length ≤ s.txtCap ∧ s.txt.all isScalar = true

/-- Fault registers (R34, R41): without a fault, or without a position, FPOS is 0. -/
abbrev State.FaultOk (s : State) : Prop :=
  (s.fault = none → s.fposv = false) ∧ (s.fposv = false → s.fpos = 0#32)

/-- The children of a node (R27). -/
def Node.children : Node → List Nat
  | .leaf _ _ => []
  | .internal _ l r => [l, r]

/-- The frequency of the node at an index, 0 where there is none. -/
def freqAt (nd : List Node) (k : Nat) : Nat :=
  match nd[k]? with
  | some x => x.freq
  | none => 0

/-- The node at an index is internal. -/
def isInternal (nd : List Node) (k : Nat) : Bool :=
  match nd[k]? with
  | some (.internal _ _ _) => true
  | _ => false

/-- An internal node at index `k` (R40): children below it, its frequency the sum of theirs. -/
def internalOk (nd : List Node) (k : Nat) : Bool :=
  match nd[k]? with
  | some (.internal f l r) => l < k && r < k && f == freqAt nd l + freqAt nd r
  | _ => false

/-- The total of a table's counts. -/
def totalCount (ft : List Entry) : Nat := (ft.map fun e => e.cnt.toNat).sum

/-- The trees in the queue and the node store (R28, R40): `NDN = 2n - PQN`, leaves first and then
internal nodes, every node a root in the queue or the child of exactly one node, insertion indices
rising, frequencies adding up to the table's total. -/
abbrev State.ForestOk (s : State) : Prop :=
  s.nd.length + s.pq.length = 2 * s.ft.length ∧ s.nextSeq = s.nd.length ∧
  s.nd.take s.ft.length = leaves s.ft ∧
  (∀ k < s.nd.length, s.ft.length ≤ k → internalOk s.nd k = true) ∧
  (∀ k < s.nd.length, (s.pq.map QElem.node).count k + (s.nd.flatMap Node.children).count k = 1) ∧
  (∀ q ∈ s.pq, q.node < s.nd.length ∧ q.seq = q.node ∧ q.freq = freqAt s.nd q.node) ∧
  (s.pq.map QElem.seq).Pairwise (· < ·) ∧
  (s.pq.map QElem.freq).sum = totalCount s.ft ∧ ∀ x ∈ s.nd, x.freq ≤ totalCount s.ft

/-- `TST = NONE` (R33, R41). -/
abbrev State.NoTree (s : State) : Prop :=
  s.nd = [] ∧ s.pq = [] ∧ s.nextSeq = 0 ∧ s.root = 0 ∧ s.walk = 0 ∧ s.dpos = 0#32

/-- `TST = BUILDING` (R33, R40, R41). -/
abbrev State.TreeUnderWay (s : State) : Prop :=
  2 ≤ s.pq.length ∧ s.root = 0 ∧ s.walk = 0 ∧ s.dpos = 0#32 ∧ s.ForestOk

/-- `TST = VALID` (R33, R40, R41): one tree, or none of an empty table; the root is the last node; the
walk stands at an internal node of a tree of two or more nodes. -/
abbrev State.TreeComplete (s : State) : Prop :=
  s.pq.length = min 1 s.ft.length ∧ s.root = s.nd.length - 1 ∧
  (2 ≤ s.nd.length → isInternal s.nd s.walk = true) ∧ (s.nd.length < 2 → s.walk = 0) ∧ s.ForestOk

/-- Tree and flag invariants (R40, R41). -/
abbrev State.TreeOk (s : State) : Prop :=
  (s.tst = .none → s.NoTree) ∧ (s.tst = .building → s.TreeUnderWay) ∧
  (s.tst = .valid → s.TreeComplete)

/-- `m` merge steps, one after another (R123). -/
def merges (m : Nat) (s : State) : Run Unit :=
  match m with
  | 0 => .done s ()
  | n + 1 => (merges n s).bind fun t _ => (mergeStep t).bind fun u _ => .done u ()

/-- The tree part of the state a run ends in. -/
def treePart (r : Run Unit) : Option (List Node × List QElem × Nat × Nat × TreeState) :=
  match r with
  | .done t _ => some (t.nd, t.pq, t.nextSeq, t.root, t.tst)
  | _ => none

/-- The tree part after HT.INI and `m` merges on a table, from reset (R122, R123, R125). -/
def tableTree (ft : List Entry) (m : Nat) : Option (List Node × List QElem × Nat × Nat × TreeState) :=
  treePart (merges m (initTree { State.reset with ft := ft }))

/-- Whatever tree stands is the present table's (R33, R125): HT.INI and some merges on `FT` alone. -/
abbrev State.TreeOfTable (s : State) : Prop :=
  s.tst ≠ .none →
    tableTree s.ft (s.nd.length - s.ft.length) = some (s.nd, s.pq, s.nextSeq, s.root, s.tst)

/-- The codebook that HT.BLD and CB.DRV derive from a table, from reset (R124, R140). -/
def tableCodes (ft : List Entry) : Option (List Bits) :=
  match buildTree { State.reset with ft := ft } with
  | .done t _ =>
    match codesOf t with
    | .ok cb => some cb
    | .error _ => none
  | _ => none

/-- The codebook (R29, R41): the present table's when `CVALID = 1`, empty otherwise. -/
abbrev State.CodebookOk (s : State) : Prop :=
  if s.cvalid then tableCodes s.ft = some s.cb else s.cb = []

/-- The invariants that hold between commands. -/
structure State.Inv (s : State) : Prop where
  /-- R8 -/
  caps : s.CapsOk
  /-- R38 -/
  table : s.TableOk
  /-- R39 -/
  streams : s.StreamsOk
  /-- R30, R31 -/
  spaces : s.SpacesOk
  /-- R34, R41 -/
  faultRegs : s.FaultOk
  /-- R40, R41 -/
  tree : s.TreeOk
  /-- R33, R125 -/
  treeOfTable : s.TreeOfTable
  /-- R41 -/
  codebook : s.CodebookOk

/-- A step is safe when the model answers a state in which no fault was taken (R221). -/
def SafeStep (s : State) : Prop := ∃ t, step s = .next t ∧ t.fault = none

/-! ## Words of the statements -/

/-- The answer of a command that completed: the state, and one response `ST = 0` (R73). -/
abbrev answered (s : State) (v : Word) : Answer := .next { s with out := s.out ++ [⟨.ok, v⟩] }

/-- The answer of a command that raised a fault in this state (R73, R198): the fault registers written,
FPOS modulo 2^32 or 0, one response with the fault's code and `VAL = 0`. -/
abbrev faulted (s : State) (k : FaultKind) (pos : Option Nat) : Answer :=
  .next { s with
    fault := some k
    fpos := BitVec.ofNat 32 (pos.getD 0)
    fposv := pos.isSome
    out := s.out ++ [⟨.fault k, 0#64⟩] }

/-- The answer to a word the fault state refuses (R200): nothing but one response. -/
abbrev refusedAnswer (s : State) : Answer := .next { s with out := s.out ++ [⟨.refused, 0#64⟩] }

/-- A number as the value of a response. -/
abbrev value (n : Nat) : Word := BitVec.ofNat 64 n

/-- A bit as a number. -/
abbrev bitNumber (b : Bool) : Nat := if b then 1 else 0

/-- Commands one after another, as a host issues them (R60); it ends where the model stops. -/
def execSeq (is : List Instr) (s : State) : Answer :=
  match is with
  | [] => .next s
  | i :: rest =>
    match exec i s with
    | .next t => execSeq rest t
    | .fault f => .fault f
    | .refused r => .refused r

/-- The row of the opcode map a command belongs to: opcode and format (R75). -/
abbrev rowOf (i : Instr) : BitVec 8 × Format := (i.opcode, i.format)

/-- The words that spell no command, cases a to f of R76. -/
abbrev SpellsNothing (w : Word) : Prop :=
  (∀ p ∈ opcodeTable, w.extractLsb' 56 8 ≠ p.1) ∨
  (∃ p ∈ opcodeTable, w.extractLsb' 56 8 = p.1 ∧ w &&& p.2.mask ≠ matchBits p.1) ∨
  (∃ p ∈ opcodeTable, w.extractLsb' 56 8 = p.1 ∧ (p.2 = .y ∨ p.2 = .yb ∨ p.2 = .sy) ∧
    ((w.extractLsb' 32 21).toNat > 0x10FFFF ∨
      (0xD800 ≤ (w.extractLsb' 32 21).toNat ∧ (w.extractLsb' 32 21).toNat ≤ 0xDFFF))) ∨
  (w.extractLsb' 56 8 = 0x02#8 ∧ (w.extractLsb' 0 8).toNat > 21) ∨
  (w.extractLsb' 56 8 = 0x22#8 ∧ w.getLsbD 55 = w.getLsbD 0) ∨
  (w.extractLsb' 56 8 = 0x12#8 ∧ w.extractLsb' 0 32 = 0#32)

/-- The status registers 0 to 21 in the order of the table of R35. -/
def statusRegisters (s : State) : List Nat :=
  [faultCode s.fault, s.fpos.toNat, bitNumber s.fposv, s.ft.length, s.bs0.length, s.bs1.length, s.cur0,
    s.cur1, s.buf.length, s.txt.length, s.nd.length, s.root, s.tst.code, bitNumber s.cvalid, s.pq.length,
    s.nextSeq, s.walk, s.dpos.toNat, s.ftCap, s.bsCap, s.bufCap, s.txtCap]

/-- The widths of the status registers (the table of R35). -/
def statusWidths : List Nat :=
  [3, 32, 1, 16, 32, 32, 32, 32, 32, 32, 17, 17, 2, 1, 16, 17, 17, 32, 16, 32, 32, 32]

/-- `n` steps, one after another; it ends where the model stops. -/
def stepN (n : Nat) (s : State) : Answer :=
  match n with
  | 0 => .next s
  | m + 1 =>
    match step s with
    | .next t => stepN m t
    | .fault f => .fault f
    | .refused r => .refused r

/-- The symbol a response of DEC.BIT emits, if any: bit 32 is the flag, the low bits the symbol (R74). -/
def emittedSym (r : Response) : Option Symbol :=
  if r.val.toNat < 2 ^ 32 then none else some (r.val.setWidth 21)

/-- The state with no tree (R127, spelled out). -/
abbrev State.noTree (s : State) : State :=
  { s with tst := .none, nd := [], root := 0, pq := [], nextSeq := 0, walk := 0, dpos := 0#32 }

/-- The state with this table, and neither tree nor codebook (R90, spelled out). -/
abbrev State.newTable (s : State) (ft : List Entry) : State :=
  { s.noTree with ft := ft, cb := [], cvalid := false }

/-- The state with these bits in a slot and its cursor at 0 (R101, R106). -/
def State.loadSlot (s : State) (k : Slot) (b : Bits) : State :=
  match k with
  | .bs0 => { s with bs0 := b, cur0 := 0 }
  | .bs1 => { s with bs1 := b, cur1 := 0 }

/-- The distinct symbols of a text in order of first appearance (R96). -/
def distinct (text : List Symbol) : List Symbol :=
  text.foldl (fun acc c => if c ∈ acc then acc else acc ++ [c]) []

/-- The table of a text (R96): its distinct symbols in order of first appearance, each with the number
of its positions. -/
def countedTable (text : List Symbol) : List Entry :=
  (distinct text).map fun c => ⟨c, BitVec.ofNat 32 (text.count c)⟩

/-- Where a path leads from a node: left at 0, right at 1 (R140). -/
def follow (nd : List Node) (k : Nat) (path : Bits) : Option Nat :=
  match path with
  | [] => some k
  | b :: rest =>
    match nd[k]? with
    | some (.internal _ l r) => follow nd (if b then r else l) rest
    | _ => none

/-- The code of a symbol: that of its first entry (R141), empty where there is none. -/
def codeOf (ft : List Entry) (cb : List Bits) (c : Symbol) : Bits := cb.getD (ft.findIdx fun e => e.sym == c) []

/-- The big-endian bytes of a 2-byte field (R53). -/
def be16 (n : Nat) : List Byte := [BitVec.ofNat 8 (n / 256), BitVec.ofNat 8 n]

/-- The big-endian bytes of a 4-byte field (R53). -/
def be32 (n : Nat) : List Byte :=
  [BitVec.ofNat 8 (n / 16777216), BitVec.ofNat 8 (n / 65536), BitVec.ofNat 8 (n / 256), BitVec.ofNat 8 n]

/-- The entries of a Compressed File, one after another (the table of R160). -/
def zzEntries (ft : List Entry) : List Byte :=
  ft.flatMap fun e => be16 (utf8 e.sym).length ++ utf8 e.sym ++ be32 e.cnt.toNat

/-- The Compressed File of a table and a bit sequence, field by field (the table of R160). -/
def zzFile (ft : List Entry) (bits : Bits) : List Byte :=
  be16 ft.length ++ zzEntries ft ++ be32 bits.length ++ pack bits

/-- Commands that write `BUF` (R50), and reset. -/
def writesBuf (i : Instr) : Bool :=
  match i with
  | .bsTob _ | .bufClr | .bufPush _ | .bufSt _ _ | .bufTrn _ | .czWr _ | .sysRst => true
  | _ => false

/-- Commands that write `TXT` (R50), and reset. -/
def writesTxt (i : Instr) : Bool :=
  match i with
  | .txtClr | .txtPush _ | .decRun _ | .sysRst => true
  | _ => false

/-- Commands that write `FT` (R50), and reset. -/
def writesFt (i : Instr) : Bool :=
  match i with
  | .ftClr | .ftCnt _ | .ftPut _ _ | .encRun _ | .czRd _ | .sysRst => true
  | _ => false

/-- Commands that write the bits of a slot (R25, R50), and reset. -/
def writesBits (i : Instr) (k : Slot) : Bool :=
  match i with
  | .bsClr j | .bsApp j _ | .bsExt j _ | .bsFrb j _ | .bsFrba j | .encSym j _ | .encRun j | .czRd j => j == k
  | .sysRst => true
  | _ => false

/-- Commands that write the cursor of a slot (R26, R112; ENC.RUN through its BS.CLR, R143), and reset. -/
def writesCur (i : Instr) (k : Slot) : Bool :=
  match i with
  | .bsClr j | .bsFrb j _ | .bsFrba j | .bsRwd j | .bsNxt j | .encRun j | .czRd j => j == k
  | .sysRst => true
  | _ => false

/-- Commands that write the tree and the queue (R27, R28), and reset. -/
def writesTree (i : Instr) : Bool :=
  match i with
  | .htIni | .htMrg | .htBld | .htDis | .decRun _ => true
  | _ => writesFt i

/-- Commands that write the decoder registers (R32), and reset. -/
def writesWalk (i : Instr) : Bool :=
  match i with
  | .decRst | .decBit _ => true
  | _ => writesTree i

/-- Commands that write the codebook (R29), and reset. -/
def writesCodebook (i : Instr) : Bool :=
  match i with
  | .cbDrv => true
  | _ => writesFt i

end Sys2Proof.Machine
end

