-- ==== Sys2Proof/Certificates/Slice0/Obligations.lean ====
section
/-! DEFINITION. The statements for the provers. Each docstring names the rule of spec/ it formalises.

An instruction's effect is said as the whole answer of `exec`: `answered t v` is the next state `t` with the
response `(0, v)`, `faulted t k pos` the next state after `raise k(pos)` in `t`, `refusedAnswer t` the
refusal; every field that `t` does not name is unchanged, so each such statement is its own frame. -/

open Sys2Proof Sys2Proof.Machine

/-! ## Encoding (30_encoding.md) -/

/-- R70 to R72, R75: every field of every command survives its word. -/
def Obligations.DecodeEncodeEveryInstr : Prop :=
  ∀ i : Instr, decode (encode i) = .ok i

/-- R70 to R72, R75: a word spells at most one command and no bit of it is dropped. -/
def Obligations.EncodeDecodeEveryWord : Prop :=
  ∀ (w : Word) (i : Instr), decode w = .ok i → encode i = w

/-- R72: the masks of the formats, and a word spells the command when `w & mask = op << 56`. -/
def Obligations.WordSpellsCommandByMask : Prop :=
  ∀ (w : Word) (op : BitVec 8) (f : Format) (m : Word), (op, f) ∈ opcodeTable →
    (f, m) ∈ [(Format.n, 0xFFFFFFFFFFFFFFFF#64), (.s, 0xFF7FFFFFFFFFFFFF#64), (.sb, 0xFF7FFFFF00000000#64),
      (.ss, 0xFF7FFFFFFFFFFFFE#64), (.y, 0xFFE00000FFFFFFFF#64), (.yb, 0xFFE0000000000000#64),
      (.sy, 0xFF600000FFFFFFFF#64), (.b, 0xFFFFFFFF00000000#64), (.c, 0xFFFFFF00FFFFFFFF#64),
      (.cb, 0xFFFFFF0000000000#64), (.r, 0xFFFFFFFFFFFFFF00#64)] →
    (w &&& m = op.setWidth 64 <<< 56 ↔ ∃ i, decode w = .ok i ∧ rowOf i = (op, f))

/-- R76: exactly the words of its cases a to f spell no command with legal operands, and each of them raises
IllegalCommand with no other change of state. -/
def Obligations.IllegalWordsRaise : Prop :=
  (∀ w : Word, SpellsNothing w ↔ ¬ ∃ i, decode w = .ok i ∧ i.wellFormed = true) ∧
  ∀ (s : State) (w : Word), s.fault = none → SpellsNothing w →
    execWord w s = faulted s .illegalCommand none

/-- Words of spec/ (R78, R163's family, 95_test_vectors.md) decode to the commands they stand for. -/
def Obligations.SampleWordsDecode : Prop :=
  decode 0x2180000000000001#64 = .ok (.bsApp .bs1 1#32) ∧
  decode 0x1200006200000003#64 = .ok (.ftPut 0x62#21 3#32) ∧
  decode 0x0100000000000000#64 = .ok .sysRst ∧
  decode 0x0200000000000015#64 = .ok (.sysRd 21#8) ∧
  decode 0x2280000000000000#64 = .ok (.bsExt .bs1 .bs0) ∧
  decode 0x2200000000000001#64 = .ok (.bsExt .bs0 .bs1) ∧
  decode 0x3300000A00000013#64 = .ok (.bufSt 0x0A#8 19#32) ∧
  decode 0x3910FFFF00000000#64 = .ok (.txtPush 0x10FFFF#21) ∧
  decode 0x4400000000000002#64 = .ok (.htNdk 2#32) ∧
  decode 0x5180006200000000#64 = .ok (.encSym .bs1 0x62#21) ∧
  decode 0x6100000000000001#64 = .ok (.decBit 1#32) ∧
  decode 0x7180000000000000#64 = .ok (.czRd .bs1) ∧
  decode 0x0000000000000000#64 = .error .undefinedOpcode ∧
  decode 0x0100000000000001#64 = .error .mustBeZero

/-- R60, R73: a step takes the next word and runs the command it decodes to, exactly; with no word presented
nothing happens. That the words stand in a queue of the state is the model's choice (log entry 1). -/
def Obligations.StepRunsDecodedCommand : Prop :=
  (∀ (s : State) (w : Word) (rest : List Word), s.cmds = w :: rest →
    step s = execWord w { s with cmds := rest }) ∧
  (∀ (s : State) (w : Word) (rest : List Word) (i : Instr), s.cmds = w :: rest → decode w = .ok i →
    step s = exec i { s with cmds := rest }) ∧
  (∀ (s : State) (nbits w : Nat) (i : Instr), decodeTableWord nbits w = some i →
    step (s.withFetchWord nbits w) = exec i s) ∧
  ∀ s : State, s.cmds = [] → step s = .next s

/-! ## The whole machine (10_state.md, 60_exceptions.md, 70_reset_and_hazards.md) -/

/-- R200: what each word is answered in the fault state. -/
def Obligations.FaultStateRefuses : Prop :=
  ∀ (s : State) (k : FaultKind) (w : Word), s.fault = some k →
    execWord w s =
      if w = 0x0100000000000000#64 then exec .sysRst s
      else if w &&& 0xFFFFFFFFFFFFFF00#64 = 0x0200000000000000#64 then
        match (statusRegisters s)[(w.extractLsb' 0 8).toNat]? with
        | some n => answered s (value n)
        | none => refusedAnswer s
      else refusedAnswer s

/-- R200, R201: no sequence of words without the reset word leaves the fault state or changes anything. That the
words stand in a queue of the state is the model's choice (log entry 1). -/
def Obligations.FaultStateIsFinal : Prop :=
  ∀ s : State, s.fault ≠ none → (∀ w ∈ s.cmds, w ≠ 0x0100000000000000#64) →
    ∃ log : List Response, log.length = s.cmds.length ∧
      stepN s.cmds.length s = .next { s with cmds := [], out := s.out ++ log }

/-- R183: SYS.RST, in every state; a word that differs from it in a must-be-zero bit is refused in the fault
state like any other. -/
def Obligations.ResetCommand : Prop :=
  rowOf .sysRst = (0x01#8, .n) ∧
  (∀ s : State, exec .sysRst s = answered { s with
      ft := [], bs0 := [], bs1 := [], cur0 := 0, cur1 := 0, nd := [], root := 0, pq := [], nextSeq := 0,
      tst := .none, cb := [], cvalid := false, walk := 0, dpos := 0#32, buf := [], txt := [],
      fault := none, fpos := 0#32, fposv := false } 0#64) ∧
  ∀ (s : State) (w : Word), s.fault ≠ none → w.extractLsb' 56 8 = 0x01#8 → w ≠ 0x0100000000000000#64 →
    execWord w s = refusedAnswer s

/-- R42, R210: every item of state after power-on and after SYS.RST; the parameters stay. -/
def Obligations.ResetValues : Prop :=
  (∀ t : State, (t = State.reset ∨ ∃ s, exec .sysRst s = .next t) →
    t.ft = [] ∧ t.bs0 = [] ∧ t.bs1 = [] ∧ t.bytes .bs0 = [] ∧ t.bytes .bs1 = [] ∧ t.cur0 = 0 ∧ t.cur1 = 0 ∧
    t.nd = [] ∧ t.root = 0 ∧ t.pq = [] ∧ t.nextSeq = 0 ∧ t.tst = .none ∧ t.cb = [] ∧ t.cvalid = false ∧
    t.walk = 0 ∧ t.dpos = 0#32 ∧ t.buf = [] ∧ t.txt = [] ∧ t.fault = none ∧ t.fpos = 0#32 ∧
    t.fposv = false) ∧
  ∀ s t : State, exec .sysRst s = .next t →
    t.ftCap = s.ftCap ∧ t.bsCap = s.bsCap ∧ t.bufCap = s.bufCap ∧ t.txtCap = s.txtCap

/-- R184: SYS.RD of each register of the table of R35, in the fault state too; other numbers. -/
def Obligations.ReadStatusRegister : Prop :=
  (∀ r, rowOf (.sysRd r) = (0x02#8, .r)) ∧
  (∀ s : State, (statusRegisters s).length = 22) ∧
  (∀ (s : State) (r : BitVec 8) (n : Nat), (statusRegisters s)[r.toNat]? = some n →
    exec (.sysRd r) s = answered s (value n)) ∧
  ∀ (s : State) (r : BitVec 8), r.toNat > 21 →
    (s.fault = none → exec (.sysRd r) s = faulted s .illegalCommand none) ∧
    (s.fault ≠ none → exec (.sysRd r) s = refusedAnswer s)

/-- R198 with the codes of R190: `raise K(pos)` writes FAULT, FPOS modulo 2^32 and FPOSV, keeps all else,
ends the command, and answers `(code of K, 0)`. -/
def Obligations.RaiseRecordsFault : Prop :=
  (∀ (s : State) (k : FaultKind) (pos : Option Nat), (Run.raised s k pos).finish = faulted s k pos) ∧
  (∀ (s : State) (k : FaultKind) (pos : Option Nat) (f : State → Word → Run Word),
    Run.bind (.raised s k pos) f = .raised s k pos) ∧
  (∀ k : FaultKind, (Status.fault k).code = k.code ∧ faultCode (some k) = k.code.toNat) ∧
  [FaultKind.invalidBit, .indexOutOfRange, .codebookMiss, .corruptStream, .trailingBits, .illegalCommand,
    .capacityExceeded].map FaultKind.code = [1#4, 2#4, 3#4, 4#4, 5#4, 6#4, 7#4]

/-- R73: every word gets exactly one response. `ST = 0` leaves the fault registers alone, but for reset;
`ST = k` says that the block was not in the fault state and now is; `ST = 15` that it was and that nothing
changed; `VAL = 0` in both; no other `ST` is produced. That the word comes from a queue and the response goes to
a list of the state is the model's choice (log entries 1 and 2). -/
def Obligations.EveryWordAnsweredOnce : Prop :=
  ∀ (s t : State) (w : Word) (rest : List Word), s.cmds = w :: rest → step s = .next t →
    t.cmds = rest ∧ ∃ r : Response, t.out = s.out ++ [r] ∧
      (r.st.code.toNat ≤ 7 ∨ r.st.code.toNat = 15) ∧
      match r.st with
      | .ok => w = 0x0100000000000000#64 ∨ (t.fault = s.fault ∧ t.fpos = s.fpos ∧ t.fposv = s.fposv)
      | .fault k => s.fault = none ∧ t.fault = some k ∧ r.val = 0#64
      | .refused => s.fault ≠ none ∧ r = ⟨.refused, 0#64⟩ ∧ t = { s with cmds := rest, out := t.out }

/-- R43: the parameters never change. The last clause is no rule of the spec: that the words stand in a queue of
the state, of which a step takes at most the first and an idle step none, is the model's choice (log entry 1). -/
def Obligations.ParametersNeverChange : Prop :=
  ∀ s t : State, step s = .next t →
    t.ftCap = s.ftCap ∧ t.bsCap = s.bsCap ∧ t.bufCap = s.bufCap ∧ t.txtCap = s.txtCap ∧
    t.cmds = s.cmds.tail

/-- R38 to R42: the invariants hold after reset (capacities at the defaults of R8, log entry 3). -/
def Obligations.ResetMeetsInv : Prop := State.reset.Inv

/-- R38 to R41, R33, R125: every command keeps the invariants, from every state that meets them; so does the idle
step, which is the model's choice (log entry 1). -/
def Obligations.StepKeepsInv : Prop :=
  ∀ s t : State, s.Inv → step s = .next t → t.Inv

/-- R220: every command completes or faults; the model never stops in a state that meets the invariants. The idle
step with no word presented is the model's choice (log entry 1). -/
def Obligations.StepNeverStops : Prop :=
  ∀ s : State, s.Inv → ∃ t, step s = .next t

/-- R35: every status register fits its width and its legal range. -/
def Obligations.RegistersWithinWidth : Prop :=
  ∀ s : State, s.Inv →
    (∀ (r n w : Nat), (statusRegisters s)[r]? = some n → statusWidths[r]? = some w → n < 2 ^ w) ∧
    s.ft.length ≤ s.ftCap ∧ s.bs0.length ≤ s.bsCap ∧ s.bs1.length ≤ s.bsCap ∧
    s.cur0 ≤ s.bs0.length ∧ s.cur1 ≤ s.bs1.length ∧ s.buf.length ≤ s.bufCap ∧ s.txt.length ≤ s.txtCap ∧
    s.nd.length ≤ 2 * s.ftCap - 1 ∧ s.root ≤ s.nd.length - 1 ∧ s.tst.code ≤ 2 ∧ s.pq.length ≤ s.ftCap ∧
    s.nextSeq ≤ 2 * s.ftCap - 1 ∧ s.walk ≤ s.nd.length - 1

/-- R25 to R32, R50, R112: an item of state, every byte of `BUF` among them, changes only in the commands
named as its writers (and reset, R183); the fault registers only by a fault (R34, R36). That ENC.RUN writes the
cursor of its slot is the model's reading of R143 (its BS.CLR) against R112's list, which names neither ENC.RUN nor
SYS.RST (log entry 19, DEDUCED); that no command touches the words still to come is the model's choice (log
entry 1). -/
def Obligations.OnlyWritersWrite : Prop :=
  ∀ (i : Instr) (s t : State), exec i s = .next t →
    (writesBuf i = false → ∀ a, t.buf.read a = s.buf.read a) ∧
    (writesTxt i = false → t.txt = s.txt) ∧
    (writesFt i = false → t.ft = s.ft) ∧
    (∀ k, writesBits i k = false → t.bits k = s.bits k) ∧
    (∀ k, writesCur i k = false → t.cur k = s.cur k) ∧
    (writesTree i = false →
      t.nd = s.nd ∧ t.root = s.root ∧ t.pq = s.pq ∧ t.nextSeq = s.nextSeq ∧ t.tst = s.tst) ∧
    (writesWalk i = false → t.walk = s.walk ∧ t.dpos = s.dpos) ∧
    (writesCodebook i = false → t.cb = s.cb ∧ t.cvalid = s.cvalid) ∧
    ((t.fault = s.fault ∧ t.fpos = s.fpos ∧ t.fposv = s.fposv) ∨ (s.fault = none ∧ t.fault ≠ none) ∨
      i = .sysRst) ∧
    t.cmds = s.cmds

/-! ## The Frequency Table (40_frequency_table.md) -/

/-- R91 with R90: FT.CNT counts one character; the first entry of the symbol is the one counted. -/
def Obligations.CountSymbolEffect : Prop :=
  (∀ sym, rowOf (.ftCnt sym) = (0x11#8, .y)) ∧
  ∀ (s : State) (sym : Symbol), s.fault = none →
    (isScalar sym = false → exec (.ftCnt sym) s = faulted s .illegalCommand none) ∧
    (isScalar sym = true → (∀ e ∈ s.ft, e.sym ≠ sym) →
      exec (.ftCnt sym) s =
        if s.ft.length = s.ftCap then faulted s .capacityExceeded none
        else answered (s.newTable (s.ft ++ [⟨sym, 1#32⟩])) (value s.ft.length)) ∧
    ∀ (i : Nat) (e : Entry), isScalar sym = true → s.ft[i]? = some e → e.sym = sym →
      (∀ j < i, ∀ x, s.ft[j]? = some x → x.sym ≠ sym) →
      exec (.ftCnt sym) s =
        if e.cnt.toNat = 2 ^ 32 - 1 then faulted s .capacityExceeded none
        else answered (s.newTable (s.ft.set i ⟨sym, BitVec.ofNat 32 (e.cnt.toNat + 1)⟩)) (value i)

/-- R92, R93 with R90: FT.PUT appends one entry as given, FT.CLR empties the table. -/
def Obligations.PutAndClearTable : Prop :=
  (∀ sym v, rowOf (.ftPut sym v) = (0x12#8, .yb)) ∧ rowOf .ftClr = (0x10#8, .n) ∧
  ∀ s : State, s.fault = none →
    (∀ (sym : Symbol) (v : Word32), exec (.ftPut sym v) s =
      if isScalar sym = false ∨ v = 0#32 then faulted s .illegalCommand none
      else if s.ft.length = s.ftCap then faulted s .capacityExceeded none
      else answered (s.newTable (s.ft ++ [⟨sym, v⟩])) (value s.ft.length)) ∧
    exec .ftClr s = answered (s.newTable []) 0#64

/-- R94, R95: FT.SYM and FT.FRQ read one entry and write nothing. -/
def Obligations.ReadTableEntry : Prop :=
  (∀ idx, rowOf (.ftSym idx) = (0x13#8, .b) ∧ rowOf (.ftFrq idx) = (0x14#8, .b)) ∧
  ∀ (s : State) (idx : Word32), s.fault = none →
    (∀ e, s.ft[idx.toNat]? = some e →
      exec (.ftSym idx) s = answered s (value e.sym.toNat) ∧
      exec (.ftFrq idx) s = answered s (value e.cnt.toNat)) ∧
    (s.ft.length ≤ idx.toNat →
      exec (.ftSym idx) s = faulted s .illegalCommand none ∧
      exec (.ftFrq idx) s = faulted s .illegalCommand none)

/-- R96: FT.CLR and one FT.CNT per character leave the table of the text, whatever stood before: its
distinct symbols in order of first appearance, each with its number of positions. -/
def Obligations.CountedTableOfText : Prop :=
  ∀ (s : State) (text : List Symbol), s.fault = none → text.all isScalar = true →
    (distinct text).length ≤ s.ftCap → text.length ≤ Config.lenCapMax →
    (∃ log : List Response, log.length = text.length + 1 ∧ (∀ r ∈ log, r.st = .ok) ∧
      execSeq (.ftClr :: text.map .ftCnt) s =
        .next { s.newTable (countedTable text) with out := s.out ++ log }) ∧
    (countedTable text).map Entry.sym = distinct text ∧ (distinct text).Nodup ∧
    (∀ c, c ∈ distinct text ↔ c ∈ text) ∧
    (distinct text).Pairwise (fun a b => text.idxOf a < text.idxOf b) ∧
    (∀ e ∈ countedTable text, e.cnt.toNat = text.count e.sym) ∧
    totalCount (countedTable text) = text.length

/-! ## The Bit Streams (41_bit_stream.md, 20_memory.md) -/

/-- R102: BS.APP; InvalidBit at the index the bit would have taken comes before the capacity. -/
def Obligations.AppendBitEffect : Prop :=
  (∀ k v, rowOf (.bsApp k v) = (0x21#8, .sb)) ∧
  ∀ (s : State) (k : Slot) (v : Word32), s.fault = none →
    exec (.bsApp k v) s =
      if v.toNat > 1 then faulted s .invalidBit (some (s.bits k).length)
      else if (s.bits k).length = s.bsCap then faulted s .capacityExceeded none
      else answered (s.setBits k (s.bits k ++ [v == 1#32])) (value ((s.bits k).length + 1))

/-- R103: BS.EXT; where it does not fit, the bits that fit stay appended. -/
def Obligations.ExtendEffect : Prop :=
  (∀ k j, rowOf (.bsExt k j) = (0x22#8, .ss)) ∧
  ∀ (s : State) (k j : Slot), s.fault = none →
    (k = j → exec (.bsExt k j) s = faulted s .illegalCommand none) ∧
    (k ≠ j → (s.bits k).length + (s.bits j).length ≤ s.bsCap →
      exec (.bsExt k j) s =
        answered (s.setBits k (s.bits k ++ s.bits j)) (value ((s.bits k).length + (s.bits j).length))) ∧
    (k ≠ j → (s.bits k).length ≤ s.bsCap → s.bsCap < (s.bits k).length + (s.bits j).length →
      exec (.bsExt k j) s =
        faulted (s.setBits k (s.bits k ++ (s.bits j).take (s.bsCap - (s.bits k).length)))
          .capacityExceeded none)

/-- R104: BS.GET reads bit `7 - idx % 8` of byte `idx / 8`, which is the stream's bit at `idx`. -/
def Obligations.GetBitEffect : Prop :=
  (∀ k idx, rowOf (.bsGet k idx) = (0x23#8, .sb)) ∧
  ∀ (s : State) (k : Slot) (idx : Word32), s.fault = none →
    ((s.bits k).length ≤ idx.toNat →
      exec (.bsGet k idx) s = faulted s .indexOutOfRange (some idx.toNat)) ∧
    (idx.toNat < (s.bits k).length → ∃ x : Byte, (s.bytes k)[idx.toNat / 8]? = some x ∧
      exec (.bsGet k idx) s = answered s (value (x.toNat / 2 ^ (7 - idx.toNat % 8) % 2)) ∧
      (s.bits k)[idx.toNat]? = some (x.toNat / 2 ^ (7 - idx.toNat % 8) % 2 == 1))

/-- R105, R106, R107, R108: BS.TOB, BS.FRB and BS.FRBA between a slot and the byte buffer. -/
def Obligations.StreamBytesEffect : Prop :=
  (∀ k v, rowOf (.bsTob k) = (0x24#8, .s) ∧ rowOf (.bsFrb k v) = (0x25#8, .sb) ∧
    rowOf (.bsFrba k) = (0x26#8, .s)) ∧
  ∀ (s : State) (k : Slot), s.fault = none →
    (exec (.bsTob k) s =
      if ((s.bits k).length + 7) / 8 > s.bufCap then faulted s .capacityExceeded none
      else answered { s with buf := pack (s.bits k) } (value (s.bits k).length)) ∧
    (∀ v : Word32, exec (.bsFrb k v) s =
      if s.buf.length ≠ (v.toNat + 7) / 8 then faulted s .corruptStream none
      else if v.toNat > s.bsCap then faulted s .capacityExceeded none
      else answered (s.loadSlot k (unpack s.buf v.toNat)) (value v.toNat)) ∧
    (exec (.bsFrba k) s =
      if 8 * s.buf.length > s.bsCap then faulted s .capacityExceeded none
      else answered (s.loadSlot k (unpack s.buf (8 * s.buf.length))) (value (8 * s.buf.length)))

/-- R55 with R54: the packing function, the unpacking function, and that each undoes the other. -/
def Obligations.PackUnpackInverse : Prop :=
  (∀ (b : Bits) (k : Nat), k < (b.length + 7) / 8 → ∃ x : Byte, (pack b)[k]? = some x ∧
    x.toNat = ((List.range 8).map fun j =>
      if 8 * k + j < b.length then bitNumber (b.getD (8 * k + j) false) * 2 ^ (7 - j) else 0).sum) ∧
  (∀ b : Bits, (pack b).length = (b.length + 7) / 8) ∧
  (∀ (s : State) (k : Slot), s.bytes k = pack (s.bits k)) ∧
  (∀ (B : List Byte) (L i : Nat) (x : Byte), i < L → B[i / 8]? = some x →
    (unpack B L)[i]? = some (x.toNat / 2 ^ (7 - i % 8) % 2 == 1)) ∧
  (∀ (B : List Byte) (L : Nat), (unpack B L).length = L) ∧
  (∀ b : Bits, unpack (pack b) b.length = b) ∧
  ∀ (B : List Byte) (L : Nat), B.length = (L + 7) / 8 →
    (pack (unpack B L) = B ↔ ∀ i, L ≤ i → i < 8 * B.length → byteBit B i = false)

/-- R100: the helper `append_bit` on the byte view, new byte 0x00 and bit ORed in, is `bits ++ [v]` in the
abstract view, behind the capacity check. -/
def Obligations.ByteAppendRefines : Prop :=
  (∀ (b : Bits) (v : Bool), appendBytes (pack b) b.length v = (pack (b ++ [v]), (b ++ [v]).length)) ∧
  ∀ (s : State) (k : Slot) (v : Bool), appendBit k v s =
    if (s.bits k).length = s.bsCap then .raised s .capacityExceeded none
    else .done (s.setBits k (s.bits k ++ [v])) ()

/-- R109, R110: BS.EQ compares length and bits; BS.HASH is a function of the bits alone, so equal streams
hash equal (HASHFN is a free value, log entry 7). -/
def Obligations.EqualityAndHash : Prop :=
  (∀ k j, rowOf (.bsEq k j) = (0x27#8, .ss) ∧ rowOf (.bsHash k) = (0x28#8, .s)) ∧
  ∀ (s : State) (k j : Slot), s.fault = none →
    (((s.bits k).length = (s.bits j).length ∧
        ∀ i < (s.bits k).length, (s.bits k)[i]? = (s.bits j)[i]?) →
      exec (.bsEq k j) s = answered s 1#64) ∧
    (¬((s.bits k).length = (s.bits j).length ∧
        ∀ i < (s.bits k).length, (s.bits k)[i]? = (s.bits j)[i]?) →
      exec (.bsEq k j) s = answered s 0#64) ∧
    exec (.bsHash k) s = answered s (Config.hashFn (s.bits k)) ∧
    (exec (.bsEq k j) s = answered s 1#64 →
      ∃ v, exec (.bsHash k) s = answered s v ∧ exec (.bsHash j) s = answered s v)

/-- R101, R111, R112: BS.CLR, BS.RWD and BS.NXT. -/
def Obligations.ClearRewindNext : Prop :=
  (∀ k, rowOf (.bsClr k) = (0x20#8, .s) ∧ rowOf (.bsRwd k) = (0x29#8, .s) ∧
    rowOf (.bsNxt k) = (0x2A#8, .s)) ∧
  ∀ (s : State) (k : Slot), s.fault = none →
    exec (.bsClr k) s = answered (s.loadSlot k []) 0#64 ∧
    exec (.bsRwd k) s = answered (s.setCur k 0) 0#64 ∧
    (∀ b, (s.bits k)[s.cur k]? = some b →
      exec (.bsNxt k) s = answered (s.setCur k (s.cur k + 1)) (value (2 ^ 32 + bitNumber b))) ∧
    ((s.bits k).length ≤ s.cur k → exec (.bsNxt k) s = answered s 0#64)

/-- R112: BS.RWD and `LEN[s]` BS.NXT produce `bits(s)`, and one more BS.NXT produces nothing. -/
def Obligations.IterationYieldsStream : Prop :=
  ∀ (s : State) (k : Slot), s.fault = none →
    execSeq (.bsRwd k :: List.replicate ((s.bits k).length + 1) (.bsNxt k)) s =
      .next { s.setCur k (s.bits k).length with
        out := s.out ++ [⟨.ok, 0#64⟩] ++
          ((s.bits k).map fun b => ⟨.ok, value (2 ^ 32 + bitNumber b)⟩) ++ [⟨.ok, 0#64⟩] }

/-- R113 (c): BS.TOB, then BS.FRB of either slot with the count it returned, then BS.EQ returns 1. -/
def Obligations.SerializationRoundTrip : Prop :=
  ∀ (s : State) (k j : Slot), s.fault = none → s.Inv → ((s.bits k).length + 7) / 8 ≤ s.bufCap →
    ∃ t, execSeq [.bsTob k, .bsFrb j (BitVec.ofNat 32 (s.bits k).length), .bsEq k j] s = .next t ∧
      t.bits j = s.bits k ∧
      t.out = s.out ++ [⟨.ok, value (s.bits k).length⟩, ⟨.ok, value (s.bits k).length⟩, ⟨.ok, 1#64⟩]

/-! ## The Tree Builder (42_tree_builder.md) -/

/-- R122: HT.INI. The queue is a set (R28), so its list is named up to order. -/
def Obligations.InitTreeEffect : Prop :=
  rowOf .htIni = (0x40#8, .n) ∧
  ∀ s : State, s.fault = none → ∃ q : List QElem,
    q.Perm (s.ft.zipIdx.map fun p => ⟨p.1.cnt.toNat, p.2, p.2⟩) ∧
    exec .htIni s = answered { s with
      nd := s.ft.map fun e => .leaf e.sym e.cnt.toNat
      pq := q
      nextSeq := s.ft.length
      walk := 0
      dpos := 0#32
      root := 0
      tst := if s.ft.length ≥ 2 then .building else .valid } (value s.ft.length)

/-- R123 with the order of R121: HT.MRG extracts the least element A, then the least of the rest, B, and
combines them, A to the left. The queue is a set (R28), so its list is named up to order. -/
def Obligations.MergeStepEffect : Prop :=
  rowOf .htMrg = (0x41#8, .n) ∧
  ∀ s : State, s.fault = none →
    (s.tst ≠ .building → exec .htMrg s = faulted s .illegalCommand none) ∧
    ∀ a b : QElem, s.tst = .building → (s.pq.map QElem.seq).Nodup → a ∈ s.pq → b ∈ s.pq → a ≠ b →
      (∀ x ∈ s.pq, x ≠ a → a.freq < x.freq ∨ (a.freq = x.freq ∧ a.seq < x.seq)) →
      (∀ x ∈ s.pq, x ≠ a → x ≠ b → b.freq < x.freq ∨ (b.freq = x.freq ∧ b.seq < x.seq)) →
      ∃ q : List QElem,
        q.Perm (⟨a.freq + b.freq, s.nextSeq, s.nd.length⟩ :: s.pq.filter fun x => x ≠ a && x ≠ b) ∧
        exec .htMrg s = answered { s with
          nd := s.nd ++ [.internal (a.freq + b.freq) a.node b.node]
          pq := q
          nextSeq := s.nextSeq + 1
          tst := if s.pq.length = 2 then .valid else .building
          root := if s.pq.length = 2 then s.nd.length else s.root
          walk := if s.pq.length = 2 then s.nd.length else s.walk
          dpos := if s.pq.length = 2 then 0#32 else s.dpos } (value (s.pq.length - 1))

/-- R124: HT.BLD completes from every state, leaves a valid tree of `2 FTN - 1` nodes (0 of an empty table)
and, but for the responses, the state of HT.INI and `FTN - 1` HT.MRG commands, the last of which returns 1. -/
def Obligations.BuildTreeEffect : Prop :=
  rowOf .htBld = (0x42#8, .n) ∧
  ∀ s : State, s.fault = none → ∃ t u : State,
    exec .htBld s = .next t ∧
    t = { s with nd := t.nd, root := t.root, pq := t.pq, nextSeq := t.nextSeq, tst := .valid,
                 walk := t.root, dpos := 0#32, out := s.out ++ [⟨.ok, value t.nd.length⟩] } ∧
    t.nd.length = 2 * s.ft.length - 1 ∧
    execSeq (.htIni :: List.replicate (s.ft.length - 1) .htMrg) s = .next u ∧
    u = { t with out := u.out } ∧ u.out.getLast? = some ⟨.ok, value (min 1 s.ft.length)⟩

/-- R125: tree, queue, insertion index and codebook after HT.BLD and CB.DRV are functions of `FT` alone. -/
def Obligations.BuildDependsOnTableOnly : Prop :=
  ∀ s v : State, s.fault = none → v.fault = none → s.ft = v.ft → ∃ t u : State,
    execSeq [.htBld, .cbDrv] s = .next t ∧ execSeq [.htBld, .cbDrv] v = .next u ∧
    t.nd = u.nd ∧ t.root = u.root ∧ t.pq = u.pq ∧ t.nextSeq = u.nextSeq ∧ t.tst = u.tst ∧
    t.cb = u.cb ∧ t.cvalid = true ∧ u.cvalid = true

/-- R127 to R131: HT.DIS, and the four reads of a node, which write nothing. -/
def Obligations.DiscardAndReadNodes : Prop :=
  (∀ idx, rowOf .htDis = (0x43#8, .n) ∧ rowOf (.htNdk idx) = (0x44#8, .b) ∧
    rowOf (.htNdf idx) = (0x45#8, .b) ∧ rowOf (.htNdl idx) = (0x46#8, .b) ∧
    rowOf (.htNdr idx) = (0x47#8, .b)) ∧
  ∀ (s : State) (idx : Word32), s.fault = none →
    exec .htDis s = answered { s with tst := .none, nd := [], root := 0, pq := [], nextSeq := 0, walk := 0,
                                      dpos := 0#32 } 0#64 ∧
    (∀ sym f, s.nd[idx.toNat]? = some (.leaf sym f) →
      exec (.htNdk idx) s = answered s (value sym.toNat) ∧
      exec (.htNdf idx) s = answered s (value f) ∧
      exec (.htNdl idx) s = faulted s .illegalCommand none ∧
      exec (.htNdr idx) s = faulted s .illegalCommand none) ∧
    (∀ f l r, s.nd[idx.toNat]? = some (.internal f l r) →
      exec (.htNdk idx) s = answered s (value (2 ^ 32)) ∧
      exec (.htNdf idx) s = answered s (value f) ∧
      exec (.htNdl idx) s = answered s (value l) ∧
      exec (.htNdr idx) s = answered s (value r)) ∧
    (s.nd.length ≤ idx.toNat →
      exec (.htNdk idx) s = faulted s .illegalCommand none ∧
      exec (.htNdf idx) s = faulted s .illegalCommand none ∧
      exec (.htNdl idx) s = faulted s .illegalCommand none ∧
      exec (.htNdr idx) s = faulted s .illegalCommand none)

/-- R40: from every table HT.BLD makes one tree: its leaves are the entries in order, its internal nodes have
children below them whose frequencies add up, every node but the root is the child of exactly one node, and
the root's frequency is the table's total. The table is unchanged. -/
def Obligations.BuildGivesHuffmanTree : Prop :=
  ∀ s : State, s.fault = none → ∃ t, exec .htBld s = .next t ∧ t.ft = s.ft ∧ t.TreeComplete ∧
    (s.ft ≠ [] → freqAt t.nd t.root = totalCount s.ft ∧ t.pq.map QElem.node = [t.root] ∧
      t.root = t.nd.length - 1)

/-! ## The Encoder (43_encoder.md) -/

/-- R140: CB.DRV gives entry `i` the edge labels of the path from the root to leaf `i`, the lone symbol of a
one-node tree the code `[0]`, the empty tree no code. -/
def Obligations.DeriveCodebookEffect : Prop :=
  rowOf .cbDrv = (0x50#8, .n) ∧
  (∀ s : State, s.fault = none → s.tst ≠ .valid → exec .cbDrv s = faulted s .illegalCommand none) ∧
  ∀ s : State, s.fault = none → s.Inv → s.tst = .valid → ∃ cb : List Bits,
    exec .cbDrv s = answered { s with cb := cb, cvalid := true } (value s.ft.length) ∧
    cb.length = s.ft.length ∧ (s.nd.length = 0 → cb = []) ∧ (s.nd.length = 1 → cb = [[false]]) ∧
    (2 ≤ s.nd.length → ∀ i < s.ft.length, ∃ c, cb[i]? = some c ∧ follow s.nd s.root c = some i)

/-- R144 (a), (b), R132: the block's codebook is prefix-free, its codes have 1 to `FTN - 1` bits; of a table
of one entry it is `[[0]]`. -/
def Obligations.CodebookPrefixFree : Prop :=
  ∀ s : State, s.Inv → s.cvalid = true →
    s.cb.length = s.ft.length ∧ (s.ft.length = 1 → s.cb = [[false]]) ∧
    (2 ≤ s.ft.length →
      (∀ c ∈ s.cb, 1 ≤ c.length ∧ c.length ≤ s.ft.length - 1) ∧
      ∀ (i j : Nat) (ci cj : Bits), s.cb[i]? = some ci → s.cb[j]? = some cj → i ≠ j → ¬ ci <+: cj)

/-- R142: ENC.SYM; the code is that of the first entry with the symbol (R141); where it does not fit, the
bits that fit stay appended. -/
def Obligations.EncodeSymbolEffect : Prop :=
  (∀ k sym, rowOf (.encSym k sym) = (0x51#8, .sy)) ∧
  ∀ (s : State) (k : Slot) (sym : Symbol), s.fault = none →
    (isScalar sym = false ∨ s.cvalid = false → exec (.encSym k sym) s = faulted s .illegalCommand none) ∧
    (isScalar sym = true → s.cvalid = true → (∀ e ∈ s.ft, e.sym ≠ sym) →
      exec (.encSym k sym) s = faulted s .codebookMiss none) ∧
    ∀ (i : Nat) (e : Entry) (c : Bits), isScalar sym = true → s.cvalid = true →
      s.ft[i]? = some e → e.sym = sym → (∀ j < i, ∀ x, s.ft[j]? = some x → x.sym ≠ sym) →
      s.cb[i]? = some c →
      ((s.bits k).length + c.length ≤ s.bsCap →
        exec (.encSym k sym) s =
          answered (s.setBits k (s.bits k ++ c)) (value ((s.bits k).length + c.length))) ∧
      ((s.bits k).length ≤ s.bsCap → s.bsCap < (s.bits k).length + c.length →
        exec (.encSym k sym) s =
          faulted (s.setBits k (s.bits k ++ c.take (s.bsCap - (s.bits k).length))) .capacityExceeded none)

/-- R143: ENC.RUN leaves the table and the codebook of the text in `TXT`, no tree, and in the slot the codes
of the text's characters one after another. That the slot's cursor is then 0 is the model's reading of R143 (its
BS.CLR) against R112's list (log entry 19, DEDUCED). -/
def Obligations.EncodeRunEffect : Prop :=
  (∀ k, rowOf (.encRun k) = (0x52#8, .s)) ∧
  ∀ (s : State) (k : Slot), s.fault = none → (distinct s.txt).length ≤ s.ftCap →
    s.txt.length ≤ Config.lenCapMax → ∃ cb : List Bits,
      tableCodes (countedTable s.txt) = some cb ∧
      ((s.txt.flatMap (codeOf (countedTable s.txt) cb)).length ≤ s.bsCap →
        exec (.encRun k) s =
          answered ({ s.newTable (countedTable s.txt) with cb := cb, cvalid := true }.loadSlot k
              (s.txt.flatMap (codeOf (countedTable s.txt) cb)))
            (value (s.txt.flatMap (codeOf (countedTable s.txt) cb)).length))

/-- R143: where ENC.RUN meets a capacity, and the state its steps before that leave: a table too small for
the text, or a slot too small for the codes (the tree then still stands). That the slot's cursor is 0 in the
second is the model's reading of R143 (its BS.CLR) against R112's list (log entry 19, DEDUCED). -/
def Obligations.EncodeRunFaults : Prop :=
  ∀ (s : State) (k : Slot), s.fault = none → s.txt.length ≤ Config.lenCapMax →
    (∀ pre c post, s.txt = pre ++ c :: post → (distinct pre).length = s.ftCap → c ∉ pre →
      exec (.encRun k) s = faulted (s.newTable (countedTable pre)) .capacityExceeded none) ∧
    ∀ cb t, (distinct s.txt).length ≤ s.ftCap → tableCodes (countedTable s.txt) = some cb →
      s.bsCap < (s.txt.flatMap (codeOf (countedTable s.txt) cb)).length →
      exec .htBld (s.newTable (countedTable s.txt)) = .next t →
      exec (.encRun k) s =
        faulted ({ t with cb := cb, cvalid := true, out := s.out }.loadSlot k
            ((s.txt.flatMap (codeOf (countedTable s.txt) cb)).take s.bsCap)) .capacityExceeded none

/-- R144 (c): after ENC.RUN the stream's length is the sum over the entries of count times code length. -/
def Obligations.EncodedLengthIsWeightedSum : Prop :=
  ∀ (s t : State) (k : Slot), exec (.encRun k) s = .next t → s.fault = none → t.fault = none →
    (t.bits k).length = ((t.ft.zip t.cb).map fun p => p.1.cnt.toNat * p.2.length).sum ∧
    t.cb.length = t.ft.length

/-! ## The Decoder (44_decoder.md) -/

/-- R150, R152: DEC.RST and DEC.END. -/
def Obligations.DecodeWalkControl : Prop :=
  rowOf .decRst = (0x60#8, .n) ∧ rowOf .decEnd = (0x62#8, .n) ∧
  ∀ s : State, s.fault = none →
    exec .decRst s =
      (if s.tst = .valid then answered { s with walk := s.root, dpos := 0#32 } 0#64
       else faulted s .illegalCommand none) ∧
    exec .decEnd s =
      (if s.tst = .valid then
        if s.nd.length ≥ 2 ∧ s.walk ≠ s.root then faulted s .trailingBits (some s.dpos.toNat)
        else answered s 0#64
       else faulted s .illegalCommand none)

/-- R151: DEC.BIT; `DPOS` is modulo 2^32. -/
def Obligations.DecodeBitEffect : Prop :=
  (∀ v, rowOf (.decBit v) = (0x61#8, .b)) ∧
  ∀ (s : State) (v : Word32), s.fault = none →
    (s.tst ≠ .valid → exec (.decBit v) s = faulted s .illegalCommand none) ∧
    (s.tst = .valid → v.toNat > 1 → exec (.decBit v) s = faulted s .invalidBit (some s.dpos.toNat)) ∧
    (s.tst = .valid → v.toNat ≤ 1 →
      (s.nd = [] → exec (.decBit v) s = answered { s with dpos := s.dpos + 1#32 } 0#64) ∧
      (∀ sym f, s.nd = [.leaf sym f] →
        exec (.decBit v) s = answered { s with dpos := s.dpos + 1#32 } (value (2 ^ 32 + sym.toNat))) ∧
      (2 ≤ s.nd.length →
        (∀ sym f, s.nd[s.walk]? = some (.leaf sym f) →
          exec (.decBit v) s = faulted s .corruptStream (some s.dpos.toNat)) ∧
        ∀ f l r, s.nd[s.walk]? = some (.internal f l r) →
          (∀ sym g, s.nd[if v = 0#32 then l else r]? = some (.leaf sym g) →
            exec (.decBit v) s =
              answered { s with walk := s.root, dpos := s.dpos + 1#32 } (value (2 ^ 32 + sym.toNat))) ∧
          ∀ g l' r', s.nd[if v = 0#32 then l else r]? = some (.internal g l' r') →
            exec (.decBit v) s =
              answered { s with walk := (if v = 0#32 then l else r), dpos := s.dpos + 1#32 } 0#64))

/-- R153: DEC.RUN on a stream that ends between codes: nothing of the empty table, the lone symbol once per
bit, and otherwise the symbols whose codes the stream is made of. -/
def Obligations.DecodeRunEffect : Prop :=
  (∀ k, rowOf (.decRun k) = (0x63#8, .s)) ∧
  ∀ (s : State) (k : Slot), s.fault = none →
    (s.ft = [] → exec (.decRun k) s = answered { s.noTree with txt := [] } 0#64) ∧
    (∀ e, s.ft = [e] → (s.bits k).length ≤ s.txtCap →
      exec (.decRun k) s =
        answered { s.noTree with txt := List.replicate (s.bits k).length e.sym }
          (value (s.bits k).length)) ∧
    (2 ≤ s.ft.length → ∃ cb : List Bits, tableCodes s.ft = some cb ∧
      ∀ es : List (Entry × Bits), (∀ p ∈ es, p ∈ s.ft.zip cb) → s.bits k = es.flatMap Prod.snd →
        es.length ≤ s.txtCap →
        exec (.decRun k) s =
          answered { s.noTree with txt := es.map fun p => p.1.sym } (value es.length))

/-- R153, R195: DEC.RUN on a stream that ends inside a code raises TrailingBits at its length, and on one
with more symbols than `TXT` holds CapacityExceeded; the symbols emitted so far and the tree stand. (Of the empty
table it never faults.) -/
def Obligations.DecodeRunFaults : Prop :=
  (∀ (s : State) (k : Slot) (e : Entry), s.fault = none → s.ft = [e] → s.txtCap < (s.bits k).length →
    ∃ u : State, exec (.decRun k) s = faulted u .capacityExceeded none ∧
      u = { s with nd := u.nd, root := 0, pq := u.pq, nextSeq := u.nextSeq, walk := 0, tst := .valid,
                   dpos := BitVec.ofNat 32 (s.txtCap + 1), txt := List.replicate s.txtCap e.sym }) ∧
  ∀ (s : State) (k : Slot) (cb : List Bits) (es : List (Entry × Bits)) (p : Entry × Bits) (tail : Bits),
    s.fault = none → 2 ≤ s.ft.length → tableCodes s.ft = some cb → (∀ q ∈ es, q ∈ s.ft.zip cb) →
    p ∈ s.ft.zip cb →
    (s.bits k = es.flatMap Prod.snd ++ tail → tail ≠ [] → tail <+: p.2 → tail ≠ p.2 →
      es.length ≤ s.txtCap →
      ∃ u : State, exec (.decRun k) s = faulted u .trailingBits (some (s.bits k).length) ∧
        u = { s with nd := u.nd, root := u.root, pq := u.pq, nextSeq := u.nextSeq, walk := u.walk,
                     tst := .valid, dpos := BitVec.ofNat 32 (s.bits k).length,
                     txt := es.map fun q => q.1.sym }) ∧
    (s.bits k = es.flatMap Prod.snd ++ p.2 ++ tail → es.length = s.txtCap →
      ∃ u : State, exec (.decRun k) s = faulted u .capacityExceeded none ∧
        u = { s with nd := u.nd, root := u.root, pq := u.pq, nextSeq := u.nextSeq, walk := u.root,
                     tst := .valid,
                     dpos := BitVec.ofNat 32 ((es.flatMap Prod.snd).length + p.2.length),
                     txt := es.map fun q => q.1.sym })

/-- R154 (b): DEC.RUN emits exactly the symbols that HT.BLD, DEC.RST and one DEC.BIT per bit return. -/
def Obligations.StepwiseAgreesWithRun : Prop :=
  ∀ (s t : State) (k : Slot), s.fault = none → exec (.decRun k) s = .next t → t.fault = none →
    ∃ u w : State, exec .htBld s = .next u ∧
      execSeq (.decRst :: (s.bits k).map (fun b => .decBit (if b then 1#32 else 0#32)) ++ [.decEnd]) u =
        .next w ∧
      w.fault = none ∧ (w.out.drop u.out.length).filterMap emittedSym = t.txt

/-- R154 (a): DEC.RUN after ENC.RUN gives the text back, when no capacity fault occurs. -/
def Obligations.EncodeDecodeRoundTrip : Prop :=
  ∀ (s t : State) (k : Slot), s.fault = none → exec (.encRun k) s = .next t → t.fault = none →
    s.txt.length ≤ s.txtCap → ∃ u, exec (.decRun k) t = .next u ∧ u.fault = none ∧ u.txt = s.txt

/-! ## The Compressed File (45_container.md) -/

/-- R163, R165 with the layout of R160: CZ.WR replaces `BUF` by the file of the table and the slot. -/
def Obligations.WriteFileEffect : Prop :=
  (∀ k, rowOf (.czWr k) = (0x70#8, .s)) ∧
  ∀ (s : State) (k : Slot) (size : Nat), s.fault = none →
    size = 6 + 6 * s.ft.length + (s.ft.map fun e => (utf8 e.sym).length).sum + ((s.bits k).length + 7) / 8 →
    (size > s.bufCap → exec (.czWr k) s = faulted s .capacityExceeded none) ∧
    (size ≤ s.bufCap →
      exec (.czWr k) s = answered { s with buf := zzFile s.ft (s.bits k) } (value size)) ∧
    (zzFile s.ft (s.bits k)).length = size

/-- R162: UTF-8 by ranges, and its inverse, which accepts nothing else (general knowledge G1, G2). -/
def Obligations.Utf8Definition : Prop :=
  (∀ (c : Symbol) (n : Nat), c.toNat = n →
    (n ≤ 0x7F → (utf8 c).map BitVec.toNat = [n]) ∧
    (0x80 ≤ n → n ≤ 0x7FF → (utf8 c).map BitVec.toNat = [0xC0 + n / 2 ^ 6, 0x80 + n % 2 ^ 6]) ∧
    (0x800 ≤ n → n ≤ 0xFFFF → (utf8 c).map BitVec.toNat =
      [0xE0 + n / 2 ^ 12, 0x80 + n / 2 ^ 6 % 2 ^ 6, 0x80 + n % 2 ^ 6]) ∧
    (0x10000 ≤ n → n ≤ 0x10FFFF → (utf8 c).map BitVec.toNat =
      [0xF0 + n / 2 ^ 18, 0x80 + n / 2 ^ 12 % 2 ^ 6, 0x80 + n / 2 ^ 6 % 2 ^ 6, 0x80 + n % 2 ^ 6])) ∧
  ∀ (U : List Byte) (c : Symbol), utf8Decode U = some c ↔ isScalar c = true ∧ utf8 c = U

/-- R164: CZ.RD of a well-formed image, padding bits of any value, fills the table and the slot. -/
def Obligations.ReadFileEffect : Prop :=
  (∀ k, rowOf (.czRd k) = (0x71#8, .s)) ∧
  ∀ (s : State) (k : Slot) (ft : List Entry) (L : Nat) (payload : List Byte), s.fault = none →
    s.buf = be16 ft.length ++ zzEntries ft ++ be32 L ++ payload →
    (∀ e ∈ ft, isScalar e.sym = true ∧ e.cnt ≠ 0#32) → ft.length ≤ 65535 → ft.length ≤ s.ftCap →
    L < 2 ^ 32 → L ≤ s.bsCap → payload.length = (L + 7) / 8 →
    exec (.czRd k) s =
      answered ((s.newTable ft).loadSlot k (unpack payload L)) (value (ft.length * 2 ^ 32 + L))

/-- R164, R194: every defect of an image, with the offset CZ.RD records for it and the entries it has read:
no symbol count; then, after the entries `ft` of an image that promises more (`p` is their end), a short or
illegal symbol length, a short or malformed symbol, a short or zero frequency, a full table; and after the
last entry a short bit length, a payload of another length, too many bits. -/
def Obligations.ReadFileFaults : Prop :=
  (∀ (s : State) (k : Slot), s.fault = none → s.buf.length < 2 →
    exec (.czRd k) s = faulted s .corruptStream (some 0)) ∧
  ∀ (s : State) (k : Slot) (n p : Nat) (ft : List Entry) (tail : List Byte), s.fault = none →
    s.buf = be16 n ++ zzEntries ft ++ tail → (∀ e ∈ ft, isScalar e.sym = true ∧ e.cnt ≠ 0#32) →
    n ≤ 65535 → ft.length ≤ s.ftCap → p = 2 + (zzEntries ft).length →
    (ft.length < n →
      (tail.length < 2 → exec (.czRd k) s = faulted (s.newTable ft) .corruptStream (some p)) ∧
      ∀ (l : Nat) (body : List Byte), tail = be16 l ++ body → l < 2 ^ 16 →
        (l < 1 ∨ l > 4 → exec (.czRd k) s = faulted (s.newTable ft) .corruptStream (some p)) ∧
        (1 ≤ l → l ≤ 4 → body.length < l ∨ utf8Decode (body.take l) = none →
          exec (.czRd k) s = faulted (s.newTable ft) .corruptStream (some (p + 2))) ∧
        ∀ (sym : Symbol), 1 ≤ l → l ≤ 4 → l ≤ body.length → utf8Decode (body.take l) = some sym →
          (body.length < l + 4 ∨ (body.drop l).take 4 = be32 0 →
            exec (.czRd k) s = faulted (s.newTable ft) .corruptStream (some (p + 2 + l))) ∧
          (l + 4 ≤ body.length → (body.drop l).take 4 ≠ be32 0 → ft.length = s.ftCap →
            exec (.czRd k) s = faulted (s.newTable ft) .capacityExceeded none)) ∧
    (ft.length = n →
      (tail.length < 4 → exec (.czRd k) s = faulted (s.newTable ft) .corruptStream (some p)) ∧
      ∀ (L : Nat) (payload : List Byte), tail = be32 L ++ payload → L < 2 ^ 32 →
        exec (.czRd k) s =
          if payload.length ≠ (L + 7) / 8 then faulted (s.newTable ft) .corruptStream (some (p + 4))
          else if L > s.bsCap then faulted (s.newTable ft) .capacityExceeded none
          else answered ((s.newTable ft).loadSlot k (unpack payload L)) (value (n * 2 ^ 32 + L)))

/-- R166 (a), (c): what CZ.WR wrote, CZ.RD reads back into either slot of any block it fits in, entry for
entry and bit for bit. -/
def Obligations.FileRoundTrip : Prop :=
  ∀ (s t v : State) (k j : Slot), s.Inv → exec (.czWr k) s = .next t → t.fault = none →
    v.fault = none → v.buf = t.buf → s.ft.length ≤ v.ftCap → (s.bits k).length ≤ v.bsCap →
    exec (.czRd j) v =
      answered ((v.newTable s.ft).loadSlot j (s.bits k))
        (value (s.ft.length * 2 ^ 32 + (s.bits k).length))

/-- R166 (b): with any positive number of bytes removed from its end, a written image makes CZ.RD raise
CorruptStream; neither slot is written. -/
def Obligations.TruncationRaisesCorruptStream : Prop :=
  ∀ (s t v : State) (k j : Slot) (m : Nat), s.Inv → exec (.czWr k) s = .next t → t.fault = none →
    v.fault = none → m < t.buf.length → v.buf = t.buf.take m → s.ft.length ≤ v.ftCap →
    ∃ (u : State) (p : Nat), exec (.czRd j) v = faulted u .corruptStream (some p) ∧
      p ≤ m ∧ u.bs0 = v.bs0 ∧ u.bs1 = v.bs1 ∧ u.buf = v.buf ∧ u.txt = v.txt

/-- R167: decompressing, in any block that can hold it, what compressing left in `BUF` gives the text. -/
def Obligations.CompressDecompress : Prop :=
  ∀ s t v : State, s.Inv → s.fault = none → execSeq [.encRun .bs0, .czWr .bs0] s = .next t →
    t.fault = none → v.fault = none → v.buf = t.buf → t.ft.length ≤ v.ftCap → t.bs0.length ≤ v.bsCap →
    s.txt.length ≤ v.txtCap →
    ∃ w, execSeq [.czRd .bs0, .decRun .bs0] v = .next w ∧ w.fault = none ∧ w.txt = s.txt

/-! ## The buffer and the text memory (46_buffers_system.md) -/

/-- R175 to R179: BUF.CLR, BUF.PUSH, BUF.LD, BUF.ST and BUF.TRN; a byte stored is the byte read back, and
every other address reads as before. -/
def Obligations.BufferEffect : Prop :=
  (∀ byte v, rowOf .bufClr = (0x30#8, .n) ∧ rowOf (.bufPush byte) = (0x31#8, .c) ∧
    rowOf (.bufLd v) = (0x32#8, .b) ∧ rowOf (.bufSt byte v) = (0x33#8, .cb) ∧
    rowOf (.bufTrn v) = (0x34#8, .b)) ∧
  ∀ (s : State) (byte : Byte) (v : Word32), s.fault = none →
    exec .bufClr s = answered { s with buf := [] } 0#64 ∧
    exec (.bufPush byte) s =
      (if s.buf.length = s.bufCap then faulted s .capacityExceeded none
       else answered { s with buf := s.buf ++ [byte] } (value (s.buf.length + 1))) ∧
    exec (.bufLd v) s =
      (match s.buf[v.toNat]? with
       | some b => answered s (value b.toNat)
       | none => faulted s .illegalCommand none) ∧
    (s.buf.length ≤ v.toNat → exec (.bufSt byte v) s = faulted s .illegalCommand none) ∧
    (v.toNat < s.buf.length → ∃ m : Memory,
      exec (.bufSt byte v) s = answered { s with buf := m } 0#64 ∧ m.length = s.buf.length ∧
      m.read v.toNat = some byte ∧ ∀ a, a ≠ v.toNat → m.read a = s.buf.read a) ∧
    exec (.bufTrn v) s =
      (if v.toNat ≤ s.buf.length then answered { s with buf := s.buf.take v.toNat } 0#64
       else faulted s .illegalCommand none)

/-- R180 to R182: TXT.CLR, TXT.PUSH and TXT.LD. -/
def Obligations.TextEffect : Prop :=
  (∀ sym idx, rowOf .txtClr = (0x38#8, .n) ∧ rowOf (.txtPush sym) = (0x39#8, .y) ∧
    rowOf (.txtLd idx) = (0x3A#8, .b)) ∧
  ∀ (s : State) (sym : Symbol) (idx : Word32), s.fault = none →
    exec .txtClr s = answered { s with txt := [] } 0#64 ∧
    exec (.txtPush sym) s =
      (if isScalar sym = false then faulted s .illegalCommand none
       else if s.txt.length = s.txtCap then faulted s .capacityExceeded none
       else answered { s with txt := s.txt ++ [sym] } (value (s.txt.length + 1))) ∧
    exec (.txtLd idx) s =
      (match s.txt[idx.toNat]? with
       | some c => answered s (value c.toNat)
       | none => faulted s .illegalCommand none)
end

