-- ==== Sys2Proof/Laws/State.lean ====
section
/-! SUPPORT. One lemma per field per named update of the state, so that no later proof unfolds one; and
the reads of a slot after each of them. -/

namespace Sys2Proof.Machine

/-! ## respond -/

@[simp] theorem State.respond_ft (s : State) (st : Status) (v : Word) : (s.respond st v).ft = s.ft := rfl
@[simp] theorem State.respond_bs0 (s : State) (st : Status) (v : Word) : (s.respond st v).bs0 = s.bs0 := rfl
@[simp] theorem State.respond_bs1 (s : State) (st : Status) (v : Word) : (s.respond st v).bs1 = s.bs1 := rfl
@[simp] theorem State.respond_cur0 (s : State) (st : Status) (v : Word) : (s.respond st v).cur0 = s.cur0 := rfl
@[simp] theorem State.respond_cur1 (s : State) (st : Status) (v : Word) : (s.respond st v).cur1 = s.cur1 := rfl
@[simp] theorem State.respond_nd (s : State) (st : Status) (v : Word) : (s.respond st v).nd = s.nd := rfl
@[simp] theorem State.respond_root (s : State) (st : Status) (v : Word) : (s.respond st v).root = s.root := rfl
@[simp] theorem State.respond_pq (s : State) (st : Status) (v : Word) : (s.respond st v).pq = s.pq := rfl
@[simp] theorem State.respond_nextSeq (s : State) (st : Status) (v : Word) : (s.respond st v).nextSeq = s.nextSeq := rfl
@[simp] theorem State.respond_tst (s : State) (st : Status) (v : Word) : (s.respond st v).tst = s.tst := rfl
@[simp] theorem State.respond_cb (s : State) (st : Status) (v : Word) : (s.respond st v).cb = s.cb := rfl
@[simp] theorem State.respond_cvalid (s : State) (st : Status) (v : Word) : (s.respond st v).cvalid = s.cvalid := rfl
@[simp] theorem State.respond_walk (s : State) (st : Status) (v : Word) : (s.respond st v).walk = s.walk := rfl
@[simp] theorem State.respond_dpos (s : State) (st : Status) (v : Word) : (s.respond st v).dpos = s.dpos := rfl
@[simp] theorem State.respond_buf (s : State) (st : Status) (v : Word) : (s.respond st v).buf = s.buf := rfl
@[simp] theorem State.respond_txt (s : State) (st : Status) (v : Word) : (s.respond st v).txt = s.txt := rfl
@[simp] theorem State.respond_fault (s : State) (st : Status) (v : Word) : (s.respond st v).fault = s.fault := rfl
@[simp] theorem State.respond_fpos (s : State) (st : Status) (v : Word) : (s.respond st v).fpos = s.fpos := rfl
@[simp] theorem State.respond_fposv (s : State) (st : Status) (v : Word) : (s.respond st v).fposv = s.fposv := rfl
@[simp] theorem State.respond_ftCap (s : State) (st : Status) (v : Word) : (s.respond st v).ftCap = s.ftCap := rfl
@[simp] theorem State.respond_bsCap (s : State) (st : Status) (v : Word) : (s.respond st v).bsCap = s.bsCap := rfl
@[simp] theorem State.respond_bufCap (s : State) (st : Status) (v : Word) : (s.respond st v).bufCap = s.bufCap := rfl
@[simp] theorem State.respond_txtCap (s : State) (st : Status) (v : Word) : (s.respond st v).txtCap = s.txtCap := rfl
@[simp] theorem State.respond_cmds (s : State) (st : Status) (v : Word) : (s.respond st v).cmds = s.cmds := rfl
@[simp] theorem State.respond_out (s : State) (st : Status) (v : Word) : (s.respond st v).out = s.out ++ [⟨st, v⟩] := rfl

/-! ## refuse -/

@[simp] theorem State.refuse_ft (s : State) : (s.refuse).ft = s.ft := rfl
@[simp] theorem State.refuse_bs0 (s : State) : (s.refuse).bs0 = s.bs0 := rfl
@[simp] theorem State.refuse_bs1 (s : State) : (s.refuse).bs1 = s.bs1 := rfl
@[simp] theorem State.refuse_cur0 (s : State) : (s.refuse).cur0 = s.cur0 := rfl
@[simp] theorem State.refuse_cur1 (s : State) : (s.refuse).cur1 = s.cur1 := rfl
@[simp] theorem State.refuse_nd (s : State) : (s.refuse).nd = s.nd := rfl
@[simp] theorem State.refuse_root (s : State) : (s.refuse).root = s.root := rfl
@[simp] theorem State.refuse_pq (s : State) : (s.refuse).pq = s.pq := rfl
@[simp] theorem State.refuse_nextSeq (s : State) : (s.refuse).nextSeq = s.nextSeq := rfl
@[simp] theorem State.refuse_tst (s : State) : (s.refuse).tst = s.tst := rfl
@[simp] theorem State.refuse_cb (s : State) : (s.refuse).cb = s.cb := rfl
@[simp] theorem State.refuse_cvalid (s : State) : (s.refuse).cvalid = s.cvalid := rfl
@[simp] theorem State.refuse_walk (s : State) : (s.refuse).walk = s.walk := rfl
@[simp] theorem State.refuse_dpos (s : State) : (s.refuse).dpos = s.dpos := rfl
@[simp] theorem State.refuse_buf (s : State) : (s.refuse).buf = s.buf := rfl
@[simp] theorem State.refuse_txt (s : State) : (s.refuse).txt = s.txt := rfl
@[simp] theorem State.refuse_fault (s : State) : (s.refuse).fault = s.fault := rfl
@[simp] theorem State.refuse_fpos (s : State) : (s.refuse).fpos = s.fpos := rfl
@[simp] theorem State.refuse_fposv (s : State) : (s.refuse).fposv = s.fposv := rfl
@[simp] theorem State.refuse_ftCap (s : State) : (s.refuse).ftCap = s.ftCap := rfl
@[simp] theorem State.refuse_bsCap (s : State) : (s.refuse).bsCap = s.bsCap := rfl
@[simp] theorem State.refuse_bufCap (s : State) : (s.refuse).bufCap = s.bufCap := rfl
@[simp] theorem State.refuse_txtCap (s : State) : (s.refuse).txtCap = s.txtCap := rfl
@[simp] theorem State.refuse_cmds (s : State) : (s.refuse).cmds = s.cmds := rfl
@[simp] theorem State.refuse_out (s : State) : (s.refuse).out = s.out ++ [⟨.refused, 0#64⟩] := rfl

/-! ## raise -/

@[simp] theorem State.raise_ft (s : State) (k : FaultKind) (pos : Option Nat) : (s.raise k pos).ft = s.ft := rfl
@[simp] theorem State.raise_bs0 (s : State) (k : FaultKind) (pos : Option Nat) : (s.raise k pos).bs0 = s.bs0 := rfl
@[simp] theorem State.raise_bs1 (s : State) (k : FaultKind) (pos : Option Nat) : (s.raise k pos).bs1 = s.bs1 := rfl
@[simp] theorem State.raise_cur0 (s : State) (k : FaultKind) (pos : Option Nat) : (s.raise k pos).cur0 = s.cur0 := rfl
@[simp] theorem State.raise_cur1 (s : State) (k : FaultKind) (pos : Option Nat) : (s.raise k pos).cur1 = s.cur1 := rfl
@[simp] theorem State.raise_nd (s : State) (k : FaultKind) (pos : Option Nat) : (s.raise k pos).nd = s.nd := rfl
@[simp] theorem State.raise_root (s : State) (k : FaultKind) (pos : Option Nat) : (s.raise k pos).root = s.root := rfl
@[simp] theorem State.raise_pq (s : State) (k : FaultKind) (pos : Option Nat) : (s.raise k pos).pq = s.pq := rfl
@[simp] theorem State.raise_nextSeq (s : State) (k : FaultKind) (pos : Option Nat) : (s.raise k pos).nextSeq = s.nextSeq := rfl
@[simp] theorem State.raise_tst (s : State) (k : FaultKind) (pos : Option Nat) : (s.raise k pos).tst = s.tst := rfl
@[simp] theorem State.raise_cb (s : State) (k : FaultKind) (pos : Option Nat) : (s.raise k pos).cb = s.cb := rfl
@[simp] theorem State.raise_cvalid (s : State) (k : FaultKind) (pos : Option Nat) : (s.raise k pos).cvalid = s.cvalid := rfl
@[simp] theorem State.raise_walk (s : State) (k : FaultKind) (pos : Option Nat) : (s.raise k pos).walk = s.walk := rfl
@[simp] theorem State.raise_dpos (s : State) (k : FaultKind) (pos : Option Nat) : (s.raise k pos).dpos = s.dpos := rfl
@[simp] theorem State.raise_buf (s : State) (k : FaultKind) (pos : Option Nat) : (s.raise k pos).buf = s.buf := rfl
@[simp] theorem State.raise_txt (s : State) (k : FaultKind) (pos : Option Nat) : (s.raise k pos).txt = s.txt := rfl
@[simp] theorem State.raise_fault (s : State) (k : FaultKind) (pos : Option Nat) : (s.raise k pos).fault = some k := rfl
@[simp] theorem State.raise_fpos (s : State) (k : FaultKind) (pos : Option Nat) : (s.raise k pos).fpos = (match pos with | some p => BitVec.ofNat 32 p | none => 0#32) := rfl
@[simp] theorem State.raise_fposv (s : State) (k : FaultKind) (pos : Option Nat) : (s.raise k pos).fposv = pos.isSome := rfl
@[simp] theorem State.raise_ftCap (s : State) (k : FaultKind) (pos : Option Nat) : (s.raise k pos).ftCap = s.ftCap := rfl
@[simp] theorem State.raise_bsCap (s : State) (k : FaultKind) (pos : Option Nat) : (s.raise k pos).bsCap = s.bsCap := rfl
@[simp] theorem State.raise_bufCap (s : State) (k : FaultKind) (pos : Option Nat) : (s.raise k pos).bufCap = s.bufCap := rfl
@[simp] theorem State.raise_txtCap (s : State) (k : FaultKind) (pos : Option Nat) : (s.raise k pos).txtCap = s.txtCap := rfl
@[simp] theorem State.raise_cmds (s : State) (k : FaultKind) (pos : Option Nat) : (s.raise k pos).cmds = s.cmds := rfl
@[simp] theorem State.raise_out (s : State) (k : FaultKind) (pos : Option Nat) : (s.raise k pos).out = s.out := rfl

/-! ## powerOn -/

@[simp] theorem State.powerOn_ft (s : State) : (s.powerOn).ft = State.reset.ft := rfl
@[simp] theorem State.powerOn_bs0 (s : State) : (s.powerOn).bs0 = State.reset.bs0 := rfl
@[simp] theorem State.powerOn_bs1 (s : State) : (s.powerOn).bs1 = State.reset.bs1 := rfl
@[simp] theorem State.powerOn_cur0 (s : State) : (s.powerOn).cur0 = State.reset.cur0 := rfl
@[simp] theorem State.powerOn_cur1 (s : State) : (s.powerOn).cur1 = State.reset.cur1 := rfl
@[simp] theorem State.powerOn_nd (s : State) : (s.powerOn).nd = State.reset.nd := rfl
@[simp] theorem State.powerOn_root (s : State) : (s.powerOn).root = State.reset.root := rfl
@[simp] theorem State.powerOn_pq (s : State) : (s.powerOn).pq = State.reset.pq := rfl
@[simp] theorem State.powerOn_nextSeq (s : State) : (s.powerOn).nextSeq = State.reset.nextSeq := rfl
@[simp] theorem State.powerOn_tst (s : State) : (s.powerOn).tst = State.reset.tst := rfl
@[simp] theorem State.powerOn_cb (s : State) : (s.powerOn).cb = State.reset.cb := rfl
@[simp] theorem State.powerOn_cvalid (s : State) : (s.powerOn).cvalid = State.reset.cvalid := rfl
@[simp] theorem State.powerOn_walk (s : State) : (s.powerOn).walk = State.reset.walk := rfl
@[simp] theorem State.powerOn_dpos (s : State) : (s.powerOn).dpos = State.reset.dpos := rfl
@[simp] theorem State.powerOn_buf (s : State) : (s.powerOn).buf = State.reset.buf := rfl
@[simp] theorem State.powerOn_txt (s : State) : (s.powerOn).txt = State.reset.txt := rfl
@[simp] theorem State.powerOn_fault (s : State) : (s.powerOn).fault = State.reset.fault := rfl
@[simp] theorem State.powerOn_fpos (s : State) : (s.powerOn).fpos = State.reset.fpos := rfl
@[simp] theorem State.powerOn_fposv (s : State) : (s.powerOn).fposv = State.reset.fposv := rfl
@[simp] theorem State.powerOn_ftCap (s : State) : (s.powerOn).ftCap = s.ftCap := rfl
@[simp] theorem State.powerOn_bsCap (s : State) : (s.powerOn).bsCap = s.bsCap := rfl
@[simp] theorem State.powerOn_bufCap (s : State) : (s.powerOn).bufCap = s.bufCap := rfl
@[simp] theorem State.powerOn_txtCap (s : State) : (s.powerOn).txtCap = s.txtCap := rfl
@[simp] theorem State.powerOn_cmds (s : State) : (s.powerOn).cmds = s.cmds := rfl
@[simp] theorem State.powerOn_out (s : State) : (s.powerOn).out = s.out := rfl

/-! ## dropTree -/

@[simp] theorem State.dropTree_ft (s : State) : (s.dropTree).ft = s.ft := rfl
@[simp] theorem State.dropTree_bs0 (s : State) : (s.dropTree).bs0 = s.bs0 := rfl
@[simp] theorem State.dropTree_bs1 (s : State) : (s.dropTree).bs1 = s.bs1 := rfl
@[simp] theorem State.dropTree_cur0 (s : State) : (s.dropTree).cur0 = s.cur0 := rfl
@[simp] theorem State.dropTree_cur1 (s : State) : (s.dropTree).cur1 = s.cur1 := rfl
@[simp] theorem State.dropTree_nd (s : State) : (s.dropTree).nd = [] := rfl
@[simp] theorem State.dropTree_root (s : State) : (s.dropTree).root = 0 := rfl
@[simp] theorem State.dropTree_pq (s : State) : (s.dropTree).pq = [] := rfl
@[simp] theorem State.dropTree_nextSeq (s : State) : (s.dropTree).nextSeq = 0 := rfl
@[simp] theorem State.dropTree_tst (s : State) : (s.dropTree).tst = .none := rfl
@[simp] theorem State.dropTree_cb (s : State) : (s.dropTree).cb = s.cb := rfl
@[simp] theorem State.dropTree_cvalid (s : State) : (s.dropTree).cvalid = s.cvalid := rfl
@[simp] theorem State.dropTree_walk (s : State) : (s.dropTree).walk = 0 := rfl
@[simp] theorem State.dropTree_dpos (s : State) : (s.dropTree).dpos = 0#32 := rfl
@[simp] theorem State.dropTree_buf (s : State) : (s.dropTree).buf = s.buf := rfl
@[simp] theorem State.dropTree_txt (s : State) : (s.dropTree).txt = s.txt := rfl
@[simp] theorem State.dropTree_fault (s : State) : (s.dropTree).fault = s.fault := rfl
@[simp] theorem State.dropTree_fpos (s : State) : (s.dropTree).fpos = s.fpos := rfl
@[simp] theorem State.dropTree_fposv (s : State) : (s.dropTree).fposv = s.fposv := rfl
@[simp] theorem State.dropTree_ftCap (s : State) : (s.dropTree).ftCap = s.ftCap := rfl
@[simp] theorem State.dropTree_bsCap (s : State) : (s.dropTree).bsCap = s.bsCap := rfl
@[simp] theorem State.dropTree_bufCap (s : State) : (s.dropTree).bufCap = s.bufCap := rfl
@[simp] theorem State.dropTree_txtCap (s : State) : (s.dropTree).txtCap = s.txtCap := rfl
@[simp] theorem State.dropTree_cmds (s : State) : (s.dropTree).cmds = s.cmds := rfl
@[simp] theorem State.dropTree_out (s : State) : (s.dropTree).out = s.out := rfl

/-! ## ftTouch -/

@[simp] theorem State.ftTouch_ft (s : State) : (s.ftTouch).ft = s.ft := rfl
@[simp] theorem State.ftTouch_bs0 (s : State) : (s.ftTouch).bs0 = s.bs0 := rfl
@[simp] theorem State.ftTouch_bs1 (s : State) : (s.ftTouch).bs1 = s.bs1 := rfl
@[simp] theorem State.ftTouch_cur0 (s : State) : (s.ftTouch).cur0 = s.cur0 := rfl
@[simp] theorem State.ftTouch_cur1 (s : State) : (s.ftTouch).cur1 = s.cur1 := rfl
@[simp] theorem State.ftTouch_nd (s : State) : (s.ftTouch).nd = [] := rfl
@[simp] theorem State.ftTouch_root (s : State) : (s.ftTouch).root = 0 := rfl
@[simp] theorem State.ftTouch_pq (s : State) : (s.ftTouch).pq = [] := rfl
@[simp] theorem State.ftTouch_nextSeq (s : State) : (s.ftTouch).nextSeq = 0 := rfl
@[simp] theorem State.ftTouch_tst (s : State) : (s.ftTouch).tst = .none := rfl
@[simp] theorem State.ftTouch_cb (s : State) : (s.ftTouch).cb = [] := rfl
@[simp] theorem State.ftTouch_cvalid (s : State) : (s.ftTouch).cvalid = false := rfl
@[simp] theorem State.ftTouch_walk (s : State) : (s.ftTouch).walk = 0 := rfl
@[simp] theorem State.ftTouch_dpos (s : State) : (s.ftTouch).dpos = 0#32 := rfl
@[simp] theorem State.ftTouch_buf (s : State) : (s.ftTouch).buf = s.buf := rfl
@[simp] theorem State.ftTouch_txt (s : State) : (s.ftTouch).txt = s.txt := rfl
@[simp] theorem State.ftTouch_fault (s : State) : (s.ftTouch).fault = s.fault := rfl
@[simp] theorem State.ftTouch_fpos (s : State) : (s.ftTouch).fpos = s.fpos := rfl
@[simp] theorem State.ftTouch_fposv (s : State) : (s.ftTouch).fposv = s.fposv := rfl
@[simp] theorem State.ftTouch_ftCap (s : State) : (s.ftTouch).ftCap = s.ftCap := rfl
@[simp] theorem State.ftTouch_bsCap (s : State) : (s.ftTouch).bsCap = s.bsCap := rfl
@[simp] theorem State.ftTouch_bufCap (s : State) : (s.ftTouch).bufCap = s.bufCap := rfl
@[simp] theorem State.ftTouch_txtCap (s : State) : (s.ftTouch).txtCap = s.txtCap := rfl
@[simp] theorem State.ftTouch_cmds (s : State) : (s.ftTouch).cmds = s.cmds := rfl
@[simp] theorem State.ftTouch_out (s : State) : (s.ftTouch).out = s.out := rfl

/-! ## setTable -/

@[simp] theorem State.setTable_ft (s : State) (ft : List Entry) : (s.setTable ft).ft = ft := rfl
@[simp] theorem State.setTable_bs0 (s : State) (ft : List Entry) : (s.setTable ft).bs0 = s.bs0 := rfl
@[simp] theorem State.setTable_bs1 (s : State) (ft : List Entry) : (s.setTable ft).bs1 = s.bs1 := rfl
@[simp] theorem State.setTable_cur0 (s : State) (ft : List Entry) : (s.setTable ft).cur0 = s.cur0 := rfl
@[simp] theorem State.setTable_cur1 (s : State) (ft : List Entry) : (s.setTable ft).cur1 = s.cur1 := rfl
@[simp] theorem State.setTable_nd (s : State) (ft : List Entry) : (s.setTable ft).nd = [] := rfl
@[simp] theorem State.setTable_root (s : State) (ft : List Entry) : (s.setTable ft).root = 0 := rfl
@[simp] theorem State.setTable_pq (s : State) (ft : List Entry) : (s.setTable ft).pq = [] := rfl
@[simp] theorem State.setTable_nextSeq (s : State) (ft : List Entry) : (s.setTable ft).nextSeq = 0 := rfl
@[simp] theorem State.setTable_tst (s : State) (ft : List Entry) : (s.setTable ft).tst = .none := rfl
@[simp] theorem State.setTable_cb (s : State) (ft : List Entry) : (s.setTable ft).cb = [] := rfl
@[simp] theorem State.setTable_cvalid (s : State) (ft : List Entry) : (s.setTable ft).cvalid = false := rfl
@[simp] theorem State.setTable_walk (s : State) (ft : List Entry) : (s.setTable ft).walk = 0 := rfl
@[simp] theorem State.setTable_dpos (s : State) (ft : List Entry) : (s.setTable ft).dpos = 0#32 := rfl
@[simp] theorem State.setTable_buf (s : State) (ft : List Entry) : (s.setTable ft).buf = s.buf := rfl
@[simp] theorem State.setTable_txt (s : State) (ft : List Entry) : (s.setTable ft).txt = s.txt := rfl
@[simp] theorem State.setTable_fault (s : State) (ft : List Entry) : (s.setTable ft).fault = s.fault := rfl
@[simp] theorem State.setTable_fpos (s : State) (ft : List Entry) : (s.setTable ft).fpos = s.fpos := rfl
@[simp] theorem State.setTable_fposv (s : State) (ft : List Entry) : (s.setTable ft).fposv = s.fposv := rfl
@[simp] theorem State.setTable_ftCap (s : State) (ft : List Entry) : (s.setTable ft).ftCap = s.ftCap := rfl
@[simp] theorem State.setTable_bsCap (s : State) (ft : List Entry) : (s.setTable ft).bsCap = s.bsCap := rfl
@[simp] theorem State.setTable_bufCap (s : State) (ft : List Entry) : (s.setTable ft).bufCap = s.bufCap := rfl
@[simp] theorem State.setTable_txtCap (s : State) (ft : List Entry) : (s.setTable ft).txtCap = s.txtCap := rfl
@[simp] theorem State.setTable_cmds (s : State) (ft : List Entry) : (s.setTable ft).cmds = s.cmds := rfl
@[simp] theorem State.setTable_out (s : State) (ft : List Entry) : (s.setTable ft).out = s.out := rfl

/-! ## setCodebook -/

@[simp] theorem State.setCodebook_ft (s : State) (cb : List Bits) : (s.setCodebook cb).ft = s.ft := rfl
@[simp] theorem State.setCodebook_bs0 (s : State) (cb : List Bits) : (s.setCodebook cb).bs0 = s.bs0 := rfl
@[simp] theorem State.setCodebook_bs1 (s : State) (cb : List Bits) : (s.setCodebook cb).bs1 = s.bs1 := rfl
@[simp] theorem State.setCodebook_cur0 (s : State) (cb : List Bits) : (s.setCodebook cb).cur0 = s.cur0 := rfl
@[simp] theorem State.setCodebook_cur1 (s : State) (cb : List Bits) : (s.setCodebook cb).cur1 = s.cur1 := rfl
@[simp] theorem State.setCodebook_nd (s : State) (cb : List Bits) : (s.setCodebook cb).nd = s.nd := rfl
@[simp] theorem State.setCodebook_root (s : State) (cb : List Bits) : (s.setCodebook cb).root = s.root := rfl
@[simp] theorem State.setCodebook_pq (s : State) (cb : List Bits) : (s.setCodebook cb).pq = s.pq := rfl
@[simp] theorem State.setCodebook_nextSeq (s : State) (cb : List Bits) : (s.setCodebook cb).nextSeq = s.nextSeq := rfl
@[simp] theorem State.setCodebook_tst (s : State) (cb : List Bits) : (s.setCodebook cb).tst = s.tst := rfl
@[simp] theorem State.setCodebook_cb (s : State) (cb : List Bits) : (s.setCodebook cb).cb = cb := rfl
@[simp] theorem State.setCodebook_cvalid (s : State) (cb : List Bits) : (s.setCodebook cb).cvalid = true := rfl
@[simp] theorem State.setCodebook_walk (s : State) (cb : List Bits) : (s.setCodebook cb).walk = s.walk := rfl
@[simp] theorem State.setCodebook_dpos (s : State) (cb : List Bits) : (s.setCodebook cb).dpos = s.dpos := rfl
@[simp] theorem State.setCodebook_buf (s : State) (cb : List Bits) : (s.setCodebook cb).buf = s.buf := rfl
@[simp] theorem State.setCodebook_txt (s : State) (cb : List Bits) : (s.setCodebook cb).txt = s.txt := rfl
@[simp] theorem State.setCodebook_fault (s : State) (cb : List Bits) : (s.setCodebook cb).fault = s.fault := rfl
@[simp] theorem State.setCodebook_fpos (s : State) (cb : List Bits) : (s.setCodebook cb).fpos = s.fpos := rfl
@[simp] theorem State.setCodebook_fposv (s : State) (cb : List Bits) : (s.setCodebook cb).fposv = s.fposv := rfl
@[simp] theorem State.setCodebook_ftCap (s : State) (cb : List Bits) : (s.setCodebook cb).ftCap = s.ftCap := rfl
@[simp] theorem State.setCodebook_bsCap (s : State) (cb : List Bits) : (s.setCodebook cb).bsCap = s.bsCap := rfl
@[simp] theorem State.setCodebook_bufCap (s : State) (cb : List Bits) : (s.setCodebook cb).bufCap = s.bufCap := rfl
@[simp] theorem State.setCodebook_txtCap (s : State) (cb : List Bits) : (s.setCodebook cb).txtCap = s.txtCap := rfl
@[simp] theorem State.setCodebook_cmds (s : State) (cb : List Bits) : (s.setCodebook cb).cmds = s.cmds := rfl
@[simp] theorem State.setCodebook_out (s : State) (cb : List Bits) : (s.setCodebook cb).out = s.out := rfl

/-! ## treeValid -/

@[simp] theorem State.treeValid_ft (s : State) (r : Nat) : (s.treeValid r).ft = s.ft := rfl
@[simp] theorem State.treeValid_bs0 (s : State) (r : Nat) : (s.treeValid r).bs0 = s.bs0 := rfl
@[simp] theorem State.treeValid_bs1 (s : State) (r : Nat) : (s.treeValid r).bs1 = s.bs1 := rfl
@[simp] theorem State.treeValid_cur0 (s : State) (r : Nat) : (s.treeValid r).cur0 = s.cur0 := rfl
@[simp] theorem State.treeValid_cur1 (s : State) (r : Nat) : (s.treeValid r).cur1 = s.cur1 := rfl
@[simp] theorem State.treeValid_nd (s : State) (r : Nat) : (s.treeValid r).nd = s.nd := rfl
@[simp] theorem State.treeValid_root (s : State) (r : Nat) : (s.treeValid r).root = r := rfl
@[simp] theorem State.treeValid_pq (s : State) (r : Nat) : (s.treeValid r).pq = s.pq := rfl
@[simp] theorem State.treeValid_nextSeq (s : State) (r : Nat) : (s.treeValid r).nextSeq = s.nextSeq := rfl
@[simp] theorem State.treeValid_tst (s : State) (r : Nat) : (s.treeValid r).tst = .valid := rfl
@[simp] theorem State.treeValid_cb (s : State) (r : Nat) : (s.treeValid r).cb = s.cb := rfl
@[simp] theorem State.treeValid_cvalid (s : State) (r : Nat) : (s.treeValid r).cvalid = s.cvalid := rfl
@[simp] theorem State.treeValid_walk (s : State) (r : Nat) : (s.treeValid r).walk = r := rfl
@[simp] theorem State.treeValid_dpos (s : State) (r : Nat) : (s.treeValid r).dpos = 0#32 := rfl
@[simp] theorem State.treeValid_buf (s : State) (r : Nat) : (s.treeValid r).buf = s.buf := rfl
@[simp] theorem State.treeValid_txt (s : State) (r : Nat) : (s.treeValid r).txt = s.txt := rfl
@[simp] theorem State.treeValid_fault (s : State) (r : Nat) : (s.treeValid r).fault = s.fault := rfl
@[simp] theorem State.treeValid_fpos (s : State) (r : Nat) : (s.treeValid r).fpos = s.fpos := rfl
@[simp] theorem State.treeValid_fposv (s : State) (r : Nat) : (s.treeValid r).fposv = s.fposv := rfl
@[simp] theorem State.treeValid_ftCap (s : State) (r : Nat) : (s.treeValid r).ftCap = s.ftCap := rfl
@[simp] theorem State.treeValid_bsCap (s : State) (r : Nat) : (s.treeValid r).bsCap = s.bsCap := rfl
@[simp] theorem State.treeValid_bufCap (s : State) (r : Nat) : (s.treeValid r).bufCap = s.bufCap := rfl
@[simp] theorem State.treeValid_txtCap (s : State) (r : Nat) : (s.treeValid r).txtCap = s.txtCap := rfl
@[simp] theorem State.treeValid_cmds (s : State) (r : Nat) : (s.treeValid r).cmds = s.cmds := rfl
@[simp] theorem State.treeValid_out (s : State) (r : Nat) : (s.treeValid r).out = s.out := rfl

/-! ## setBits -/

@[simp] theorem State.setBits_ft (s : State) (k : Slot) (b : Bits) : (s.setBits k b).ft = s.ft := by cases k <;> rfl
@[simp] theorem State.setBits_bs0 (s : State) (k : Slot) (b : Bits) : (s.setBits k b).bs0 = if k = .bs0 then b else s.bs0 := by cases k <;> rfl
@[simp] theorem State.setBits_bs1 (s : State) (k : Slot) (b : Bits) : (s.setBits k b).bs1 = if k = .bs1 then b else s.bs1 := by cases k <;> rfl
@[simp] theorem State.setBits_cur0 (s : State) (k : Slot) (b : Bits) : (s.setBits k b).cur0 = s.cur0 := by cases k <;> rfl
@[simp] theorem State.setBits_cur1 (s : State) (k : Slot) (b : Bits) : (s.setBits k b).cur1 = s.cur1 := by cases k <;> rfl
@[simp] theorem State.setBits_nd (s : State) (k : Slot) (b : Bits) : (s.setBits k b).nd = s.nd := by cases k <;> rfl
@[simp] theorem State.setBits_root (s : State) (k : Slot) (b : Bits) : (s.setBits k b).root = s.root := by cases k <;> rfl
@[simp] theorem State.setBits_pq (s : State) (k : Slot) (b : Bits) : (s.setBits k b).pq = s.pq := by cases k <;> rfl
@[simp] theorem State.setBits_nextSeq (s : State) (k : Slot) (b : Bits) : (s.setBits k b).nextSeq = s.nextSeq := by cases k <;> rfl
@[simp] theorem State.setBits_tst (s : State) (k : Slot) (b : Bits) : (s.setBits k b).tst = s.tst := by cases k <;> rfl
@[simp] theorem State.setBits_cb (s : State) (k : Slot) (b : Bits) : (s.setBits k b).cb = s.cb := by cases k <;> rfl
@[simp] theorem State.setBits_cvalid (s : State) (k : Slot) (b : Bits) : (s.setBits k b).cvalid = s.cvalid := by cases k <;> rfl
@[simp] theorem State.setBits_walk (s : State) (k : Slot) (b : Bits) : (s.setBits k b).walk = s.walk := by cases k <;> rfl
@[simp] theorem State.setBits_dpos (s : State) (k : Slot) (b : Bits) : (s.setBits k b).dpos = s.dpos := by cases k <;> rfl
@[simp] theorem State.setBits_buf (s : State) (k : Slot) (b : Bits) : (s.setBits k b).buf = s.buf := by cases k <;> rfl
@[simp] theorem State.setBits_txt (s : State) (k : Slot) (b : Bits) : (s.setBits k b).txt = s.txt := by cases k <;> rfl
@[simp] theorem State.setBits_fault (s : State) (k : Slot) (b : Bits) : (s.setBits k b).fault = s.fault := by cases k <;> rfl
@[simp] theorem State.setBits_fpos (s : State) (k : Slot) (b : Bits) : (s.setBits k b).fpos = s.fpos := by cases k <;> rfl
@[simp] theorem State.setBits_fposv (s : State) (k : Slot) (b : Bits) : (s.setBits k b).fposv = s.fposv := by cases k <;> rfl
@[simp] theorem State.setBits_ftCap (s : State) (k : Slot) (b : Bits) : (s.setBits k b).ftCap = s.ftCap := by cases k <;> rfl
@[simp] theorem State.setBits_bsCap (s : State) (k : Slot) (b : Bits) : (s.setBits k b).bsCap = s.bsCap := by cases k <;> rfl
@[simp] theorem State.setBits_bufCap (s : State) (k : Slot) (b : Bits) : (s.setBits k b).bufCap = s.bufCap := by cases k <;> rfl
@[simp] theorem State.setBits_txtCap (s : State) (k : Slot) (b : Bits) : (s.setBits k b).txtCap = s.txtCap := by cases k <;> rfl
@[simp] theorem State.setBits_cmds (s : State) (k : Slot) (b : Bits) : (s.setBits k b).cmds = s.cmds := by cases k <;> rfl
@[simp] theorem State.setBits_out (s : State) (k : Slot) (b : Bits) : (s.setBits k b).out = s.out := by cases k <;> rfl

/-! ## setCur -/

@[simp] theorem State.setCur_ft (s : State) (k : Slot) (n : Nat) : (s.setCur k n).ft = s.ft := by cases k <;> rfl
@[simp] theorem State.setCur_bs0 (s : State) (k : Slot) (n : Nat) : (s.setCur k n).bs0 = s.bs0 := by cases k <;> rfl
@[simp] theorem State.setCur_bs1 (s : State) (k : Slot) (n : Nat) : (s.setCur k n).bs1 = s.bs1 := by cases k <;> rfl
@[simp] theorem State.setCur_cur0 (s : State) (k : Slot) (n : Nat) : (s.setCur k n).cur0 = if k = .bs0 then n else s.cur0 := by cases k <;> rfl
@[simp] theorem State.setCur_cur1 (s : State) (k : Slot) (n : Nat) : (s.setCur k n).cur1 = if k = .bs1 then n else s.cur1 := by cases k <;> rfl
@[simp] theorem State.setCur_nd (s : State) (k : Slot) (n : Nat) : (s.setCur k n).nd = s.nd := by cases k <;> rfl
@[simp] theorem State.setCur_root (s : State) (k : Slot) (n : Nat) : (s.setCur k n).root = s.root := by cases k <;> rfl
@[simp] theorem State.setCur_pq (s : State) (k : Slot) (n : Nat) : (s.setCur k n).pq = s.pq := by cases k <;> rfl
@[simp] theorem State.setCur_nextSeq (s : State) (k : Slot) (n : Nat) : (s.setCur k n).nextSeq = s.nextSeq := by cases k <;> rfl
@[simp] theorem State.setCur_tst (s : State) (k : Slot) (n : Nat) : (s.setCur k n).tst = s.tst := by cases k <;> rfl
@[simp] theorem State.setCur_cb (s : State) (k : Slot) (n : Nat) : (s.setCur k n).cb = s.cb := by cases k <;> rfl
@[simp] theorem State.setCur_cvalid (s : State) (k : Slot) (n : Nat) : (s.setCur k n).cvalid = s.cvalid := by cases k <;> rfl
@[simp] theorem State.setCur_walk (s : State) (k : Slot) (n : Nat) : (s.setCur k n).walk = s.walk := by cases k <;> rfl
@[simp] theorem State.setCur_dpos (s : State) (k : Slot) (n : Nat) : (s.setCur k n).dpos = s.dpos := by cases k <;> rfl
@[simp] theorem State.setCur_buf (s : State) (k : Slot) (n : Nat) : (s.setCur k n).buf = s.buf := by cases k <;> rfl
@[simp] theorem State.setCur_txt (s : State) (k : Slot) (n : Nat) : (s.setCur k n).txt = s.txt := by cases k <;> rfl
@[simp] theorem State.setCur_fault (s : State) (k : Slot) (n : Nat) : (s.setCur k n).fault = s.fault := by cases k <;> rfl
@[simp] theorem State.setCur_fpos (s : State) (k : Slot) (n : Nat) : (s.setCur k n).fpos = s.fpos := by cases k <;> rfl
@[simp] theorem State.setCur_fposv (s : State) (k : Slot) (n : Nat) : (s.setCur k n).fposv = s.fposv := by cases k <;> rfl
@[simp] theorem State.setCur_ftCap (s : State) (k : Slot) (n : Nat) : (s.setCur k n).ftCap = s.ftCap := by cases k <;> rfl
@[simp] theorem State.setCur_bsCap (s : State) (k : Slot) (n : Nat) : (s.setCur k n).bsCap = s.bsCap := by cases k <;> rfl
@[simp] theorem State.setCur_bufCap (s : State) (k : Slot) (n : Nat) : (s.setCur k n).bufCap = s.bufCap := by cases k <;> rfl
@[simp] theorem State.setCur_txtCap (s : State) (k : Slot) (n : Nat) : (s.setCur k n).txtCap = s.txtCap := by cases k <;> rfl
@[simp] theorem State.setCur_cmds (s : State) (k : Slot) (n : Nat) : (s.setCur k n).cmds = s.cmds := by cases k <;> rfl
@[simp] theorem State.setCur_out (s : State) (k : Slot) (n : Nat) : (s.setCur k n).out = s.out := by cases k <;> rfl

/-! ## initTree -/

@[simp] theorem initTree_ft (s : State) : (initTree s).ft = s.ft := rfl
@[simp] theorem initTree_bs0 (s : State) : (initTree s).bs0 = s.bs0 := rfl
@[simp] theorem initTree_bs1 (s : State) : (initTree s).bs1 = s.bs1 := rfl
@[simp] theorem initTree_cur0 (s : State) : (initTree s).cur0 = s.cur0 := rfl
@[simp] theorem initTree_cur1 (s : State) : (initTree s).cur1 = s.cur1 := rfl
@[simp] theorem initTree_nd (s : State) : (initTree s).nd = leaves s.ft := rfl
@[simp] theorem initTree_root (s : State) : (initTree s).root = 0 := rfl
@[simp] theorem initTree_pq (s : State) : (initTree s).pq = firstQueue s.ft := rfl
@[simp] theorem initTree_nextSeq (s : State) : (initTree s).nextSeq = s.ft.length := rfl
@[simp] theorem initTree_tst (s : State) : (initTree s).tst = if s.ft.length ≥ 2 then .building else .valid := rfl
@[simp] theorem initTree_cb (s : State) : (initTree s).cb = s.cb := rfl
@[simp] theorem initTree_cvalid (s : State) : (initTree s).cvalid = s.cvalid := rfl
@[simp] theorem initTree_walk (s : State) : (initTree s).walk = 0 := rfl
@[simp] theorem initTree_dpos (s : State) : (initTree s).dpos = 0#32 := rfl
@[simp] theorem initTree_buf (s : State) : (initTree s).buf = s.buf := rfl
@[simp] theorem initTree_txt (s : State) : (initTree s).txt = s.txt := rfl
@[simp] theorem initTree_fault (s : State) : (initTree s).fault = s.fault := rfl
@[simp] theorem initTree_fpos (s : State) : (initTree s).fpos = s.fpos := rfl
@[simp] theorem initTree_fposv (s : State) : (initTree s).fposv = s.fposv := rfl
@[simp] theorem initTree_ftCap (s : State) : (initTree s).ftCap = s.ftCap := rfl
@[simp] theorem initTree_bsCap (s : State) : (initTree s).bsCap = s.bsCap := rfl
@[simp] theorem initTree_bufCap (s : State) : (initTree s).bufCap = s.bufCap := rfl
@[simp] theorem initTree_txtCap (s : State) : (initTree s).txtCap = s.txtCap := rfl
@[simp] theorem initTree_cmds (s : State) : (initTree s).cmds = s.cmds := rfl
@[simp] theorem initTree_out (s : State) : (initTree s).out = s.out := rfl

/-! ## combine -/

@[simp] theorem combine_ft (x y : QElem) (q : List QElem) (s : State) : (combine x y q s).ft = s.ft := rfl
@[simp] theorem combine_bs0 (x y : QElem) (q : List QElem) (s : State) : (combine x y q s).bs0 = s.bs0 := rfl
@[simp] theorem combine_bs1 (x y : QElem) (q : List QElem) (s : State) : (combine x y q s).bs1 = s.bs1 := rfl
@[simp] theorem combine_cur0 (x y : QElem) (q : List QElem) (s : State) : (combine x y q s).cur0 = s.cur0 := rfl
@[simp] theorem combine_cur1 (x y : QElem) (q : List QElem) (s : State) : (combine x y q s).cur1 = s.cur1 := rfl
@[simp] theorem combine_nd (x y : QElem) (q : List QElem) (s : State) : (combine x y q s).nd = s.nd ++ [.internal (x.freq + y.freq) x.node y.node] := rfl
@[simp] theorem combine_root (x y : QElem) (q : List QElem) (s : State) : (combine x y q s).root = s.root := rfl
@[simp] theorem combine_pq (x y : QElem) (q : List QElem) (s : State) : (combine x y q s).pq = q ++ [⟨x.freq + y.freq, s.nextSeq, s.nd.length⟩] := rfl
@[simp] theorem combine_nextSeq (x y : QElem) (q : List QElem) (s : State) : (combine x y q s).nextSeq = s.nextSeq + 1 := rfl
@[simp] theorem combine_tst (x y : QElem) (q : List QElem) (s : State) : (combine x y q s).tst = s.tst := rfl
@[simp] theorem combine_cb (x y : QElem) (q : List QElem) (s : State) : (combine x y q s).cb = s.cb := rfl
@[simp] theorem combine_cvalid (x y : QElem) (q : List QElem) (s : State) : (combine x y q s).cvalid = s.cvalid := rfl
@[simp] theorem combine_walk (x y : QElem) (q : List QElem) (s : State) : (combine x y q s).walk = s.walk := rfl
@[simp] theorem combine_dpos (x y : QElem) (q : List QElem) (s : State) : (combine x y q s).dpos = s.dpos := rfl
@[simp] theorem combine_buf (x y : QElem) (q : List QElem) (s : State) : (combine x y q s).buf = s.buf := rfl
@[simp] theorem combine_txt (x y : QElem) (q : List QElem) (s : State) : (combine x y q s).txt = s.txt := rfl
@[simp] theorem combine_fault (x y : QElem) (q : List QElem) (s : State) : (combine x y q s).fault = s.fault := rfl
@[simp] theorem combine_fpos (x y : QElem) (q : List QElem) (s : State) : (combine x y q s).fpos = s.fpos := rfl
@[simp] theorem combine_fposv (x y : QElem) (q : List QElem) (s : State) : (combine x y q s).fposv = s.fposv := rfl
@[simp] theorem combine_ftCap (x y : QElem) (q : List QElem) (s : State) : (combine x y q s).ftCap = s.ftCap := rfl
@[simp] theorem combine_bsCap (x y : QElem) (q : List QElem) (s : State) : (combine x y q s).bsCap = s.bsCap := rfl
@[simp] theorem combine_bufCap (x y : QElem) (q : List QElem) (s : State) : (combine x y q s).bufCap = s.bufCap := rfl
@[simp] theorem combine_txtCap (x y : QElem) (q : List QElem) (s : State) : (combine x y q s).txtCap = s.txtCap := rfl
@[simp] theorem combine_cmds (x y : QElem) (q : List QElem) (s : State) : (combine x y q s).cmds = s.cmds := rfl
@[simp] theorem combine_out (x y : QElem) (q : List QElem) (s : State) : (combine x y q s).out = s.out := rfl

/-! ## consumeBit -/

@[simp] theorem consumeBit_ft (w : Nat) (s : State) : (consumeBit w s).ft = s.ft := rfl
@[simp] theorem consumeBit_bs0 (w : Nat) (s : State) : (consumeBit w s).bs0 = s.bs0 := rfl
@[simp] theorem consumeBit_bs1 (w : Nat) (s : State) : (consumeBit w s).bs1 = s.bs1 := rfl
@[simp] theorem consumeBit_cur0 (w : Nat) (s : State) : (consumeBit w s).cur0 = s.cur0 := rfl
@[simp] theorem consumeBit_cur1 (w : Nat) (s : State) : (consumeBit w s).cur1 = s.cur1 := rfl
@[simp] theorem consumeBit_nd (w : Nat) (s : State) : (consumeBit w s).nd = s.nd := rfl
@[simp] theorem consumeBit_root (w : Nat) (s : State) : (consumeBit w s).root = s.root := rfl
@[simp] theorem consumeBit_pq (w : Nat) (s : State) : (consumeBit w s).pq = s.pq := rfl
@[simp] theorem consumeBit_nextSeq (w : Nat) (s : State) : (consumeBit w s).nextSeq = s.nextSeq := rfl
@[simp] theorem consumeBit_tst (w : Nat) (s : State) : (consumeBit w s).tst = s.tst := rfl
@[simp] theorem consumeBit_cb (w : Nat) (s : State) : (consumeBit w s).cb = s.cb := rfl
@[simp] theorem consumeBit_cvalid (w : Nat) (s : State) : (consumeBit w s).cvalid = s.cvalid := rfl
@[simp] theorem consumeBit_walk (w : Nat) (s : State) : (consumeBit w s).walk = w := rfl
@[simp] theorem consumeBit_dpos (w : Nat) (s : State) : (consumeBit w s).dpos = s.dpos + 1#32 := rfl
@[simp] theorem consumeBit_buf (w : Nat) (s : State) : (consumeBit w s).buf = s.buf := rfl
@[simp] theorem consumeBit_txt (w : Nat) (s : State) : (consumeBit w s).txt = s.txt := rfl
@[simp] theorem consumeBit_fault (w : Nat) (s : State) : (consumeBit w s).fault = s.fault := rfl
@[simp] theorem consumeBit_fpos (w : Nat) (s : State) : (consumeBit w s).fpos = s.fpos := rfl
@[simp] theorem consumeBit_fposv (w : Nat) (s : State) : (consumeBit w s).fposv = s.fposv := rfl
@[simp] theorem consumeBit_ftCap (w : Nat) (s : State) : (consumeBit w s).ftCap = s.ftCap := rfl
@[simp] theorem consumeBit_bsCap (w : Nat) (s : State) : (consumeBit w s).bsCap = s.bsCap := rfl
@[simp] theorem consumeBit_bufCap (w : Nat) (s : State) : (consumeBit w s).bufCap = s.bufCap := rfl
@[simp] theorem consumeBit_txtCap (w : Nat) (s : State) : (consumeBit w s).txtCap = s.txtCap := rfl
@[simp] theorem consumeBit_cmds (w : Nat) (s : State) : (consumeBit w s).cmds = s.cmds := rfl
@[simp] theorem consumeBit_out (w : Nat) (s : State) : (consumeBit w s).out = s.out := rfl

/-! ## walkToRoot -/

@[simp] theorem walkToRoot_ft (s : State) : (walkToRoot s).ft = s.ft := rfl
@[simp] theorem walkToRoot_bs0 (s : State) : (walkToRoot s).bs0 = s.bs0 := rfl
@[simp] theorem walkToRoot_bs1 (s : State) : (walkToRoot s).bs1 = s.bs1 := rfl
@[simp] theorem walkToRoot_cur0 (s : State) : (walkToRoot s).cur0 = s.cur0 := rfl
@[simp] theorem walkToRoot_cur1 (s : State) : (walkToRoot s).cur1 = s.cur1 := rfl
@[simp] theorem walkToRoot_nd (s : State) : (walkToRoot s).nd = s.nd := rfl
@[simp] theorem walkToRoot_root (s : State) : (walkToRoot s).root = s.root := rfl
@[simp] theorem walkToRoot_pq (s : State) : (walkToRoot s).pq = s.pq := rfl
@[simp] theorem walkToRoot_nextSeq (s : State) : (walkToRoot s).nextSeq = s.nextSeq := rfl
@[simp] theorem walkToRoot_tst (s : State) : (walkToRoot s).tst = s.tst := rfl
@[simp] theorem walkToRoot_cb (s : State) : (walkToRoot s).cb = s.cb := rfl
@[simp] theorem walkToRoot_cvalid (s : State) : (walkToRoot s).cvalid = s.cvalid := rfl
@[simp] theorem walkToRoot_walk (s : State) : (walkToRoot s).walk = s.root := rfl
@[simp] theorem walkToRoot_dpos (s : State) : (walkToRoot s).dpos = 0#32 := rfl
@[simp] theorem walkToRoot_buf (s : State) : (walkToRoot s).buf = s.buf := rfl
@[simp] theorem walkToRoot_txt (s : State) : (walkToRoot s).txt = s.txt := rfl
@[simp] theorem walkToRoot_fault (s : State) : (walkToRoot s).fault = s.fault := rfl
@[simp] theorem walkToRoot_fpos (s : State) : (walkToRoot s).fpos = s.fpos := rfl
@[simp] theorem walkToRoot_fposv (s : State) : (walkToRoot s).fposv = s.fposv := rfl
@[simp] theorem walkToRoot_ftCap (s : State) : (walkToRoot s).ftCap = s.ftCap := rfl
@[simp] theorem walkToRoot_bsCap (s : State) : (walkToRoot s).bsCap = s.bsCap := rfl
@[simp] theorem walkToRoot_bufCap (s : State) : (walkToRoot s).bufCap = s.bufCap := rfl
@[simp] theorem walkToRoot_txtCap (s : State) : (walkToRoot s).txtCap = s.txtCap := rfl
@[simp] theorem walkToRoot_cmds (s : State) : (walkToRoot s).cmds = s.cmds := rfl
@[simp] theorem walkToRoot_out (s : State) : (walkToRoot s).out = s.out := rfl

/-! ## Reading a slot after an update -/

@[simp] theorem State.bits_setBits (s : State) (k j : Slot) (b : Bits) :
    (s.setBits k b).bits j = if j = k then b else s.bits j := by cases k <;> cases j <;> rfl

@[simp] theorem State.cur_setBits (s : State) (k j : Slot) (b : Bits) :
    (s.setBits k b).cur j = s.cur j := by cases k <;> cases j <;> rfl

@[simp] theorem State.bits_setCur (s : State) (k j : Slot) (n : Nat) :
    (s.setCur k n).bits j = s.bits j := by cases k <;> cases j <;> rfl

@[simp] theorem State.cur_setCur (s : State) (k j : Slot) (n : Nat) :
    (s.setCur k n).cur j = if j = k then n else s.cur j := by cases k <;> cases j <;> rfl

@[simp] theorem State.bits_respond (s : State) (st : Status) (v : Word) (j : Slot) : (s.respond st v).bits j = s.bits j := by cases j <;> rfl
@[simp] theorem State.cur_respond (s : State) (st : Status) (v : Word) (j : Slot) : (s.respond st v).cur j = s.cur j := by cases j <;> rfl
@[simp] theorem State.bits_refuse (s : State) (j : Slot) : (s.refuse).bits j = s.bits j := by cases j <;> rfl
@[simp] theorem State.cur_refuse (s : State) (j : Slot) : (s.refuse).cur j = s.cur j := by cases j <;> rfl
@[simp] theorem State.bits_raise (s : State) (f : FaultKind) (pos : Option Nat) (j : Slot) : (s.raise f pos).bits j = s.bits j := by cases j <;> rfl
@[simp] theorem State.cur_raise (s : State) (f : FaultKind) (pos : Option Nat) (j : Slot) : (s.raise f pos).cur j = s.cur j := by cases j <;> rfl
@[simp] theorem State.bits_dropTree (s : State) (j : Slot) : (s.dropTree).bits j = s.bits j := by cases j <;> rfl
@[simp] theorem State.cur_dropTree (s : State) (j : Slot) : (s.dropTree).cur j = s.cur j := by cases j <;> rfl
@[simp] theorem State.bits_ftTouch (s : State) (j : Slot) : (s.ftTouch).bits j = s.bits j := by cases j <;> rfl
@[simp] theorem State.cur_ftTouch (s : State) (j : Slot) : (s.ftTouch).cur j = s.cur j := by cases j <;> rfl
@[simp] theorem State.bits_setTable (s : State) (ft : List Entry) (j : Slot) : (s.setTable ft).bits j = s.bits j := by cases j <;> rfl
@[simp] theorem State.cur_setTable (s : State) (ft : List Entry) (j : Slot) : (s.setTable ft).cur j = s.cur j := by cases j <;> rfl
@[simp] theorem State.bits_setCodebook (s : State) (cb : List Bits) (j : Slot) : (s.setCodebook cb).bits j = s.bits j := by cases j <;> rfl
@[simp] theorem State.cur_setCodebook (s : State) (cb : List Bits) (j : Slot) : (s.setCodebook cb).cur j = s.cur j := by cases j <;> rfl
@[simp] theorem State.bits_treeValid (s : State) (r : Nat) (j : Slot) : (s.treeValid r).bits j = s.bits j := by cases j <;> rfl
@[simp] theorem State.cur_treeValid (s : State) (r : Nat) (j : Slot) : (s.treeValid r).cur j = s.cur j := by cases j <;> rfl
@[simp] theorem bits_initTree (s : State) (j : Slot) : (initTree s).bits j = s.bits j := by cases j <;> rfl
@[simp] theorem cur_initTree (s : State) (j : Slot) : (initTree s).cur j = s.cur j := by cases j <;> rfl
@[simp] theorem bits_combine (x y : QElem) (q : List QElem) (s : State) (j : Slot) : (combine x y q s).bits j = s.bits j := by cases j <;> rfl
@[simp] theorem cur_combine (x y : QElem) (q : List QElem) (s : State) (j : Slot) : (combine x y q s).cur j = s.cur j := by cases j <;> rfl
@[simp] theorem bits_consumeBit (w : Nat) (s : State) (j : Slot) : (consumeBit w s).bits j = s.bits j := by cases j <;> rfl
@[simp] theorem cur_consumeBit (w : Nat) (s : State) (j : Slot) : (consumeBit w s).cur j = s.cur j := by cases j <;> rfl

@[simp] theorem State.len_eq (s : State) (k : Slot) : s.len k = (s.bits k).length := rfl

@[simp] theorem clearTable_eq (s : State) : clearTable s = s.setTable [] := rfl

@[simp] theorem clearSlot_eq (k : Slot) (s : State) : clearSlot k s = (s.setBits k []).setCur k 0 := rfl

/-- Every byte buffer is in the canonical form: the addresses of its cells rise strictly. So every
operation on it keeps the form, and State.reset has it. -/
theorem Memory.wf_always (m : Memory) : m.wf := by
  have h : m.cells.map Prod.fst = List.range m.length := by
    simpa [Memory.cells, List.map_map, Function.comp_def, List.zipIdx_eq_zip_range', List.range_eq_range']
      using List.map_snd_zip (l₁ := m) (l₂ := List.range' 0 m.length) (by simp)
  simpa [Memory.wf, h] using List.pairwise_lt_range

/-- A read after a write to the same existing address gives the byte written. -/
theorem Memory.read_write_same (m : Memory) (a : Nat) (b : Byte) (h : a < m.length) :
    (m.write a b).read a = some b := by simp [Memory.read, Memory.write, h]

/-- A write leaves every other address alone. -/
theorem Memory.read_write_other (m : Memory) (a c : Nat) (b : Byte) (h : c ≠ a) :
    (m.write a b).read c = m.read c := by simp [Memory.read, Memory.write, Ne.symm h]

end Sys2Proof.Machine
end

