-- ==== Sys2Proof/Laws/Ops.lean ====
section
/-! SUPPORT. What each shared operation can do, said once: how a command ends, and for every operation
over the state what a run that is done left. Later proofs cite these and do not unfold the operation. -/

namespace Sys2Proof.Machine

/-! ## Run -/

@[simp] theorem Run.bind_done {α β : Type} (s : State) (a : α) (f : State → α → Run β) :
    (Run.done s a).bind f = f s a := rfl

@[simp] theorem Run.bind_raised {α β : Type} (s : State) (k : FaultKind) (p : Option Nat)
    (f : State → α → Run β) : (Run.raised s k p : Run α).bind f = .raised s k p := rfl

@[simp] theorem Run.bind_stuck {α β : Type} (e : Fault) (f : State → α → Run β) :
    (Run.stuck e : Run α).bind f = .stuck e := rfl

/-- A sequence is done exactly when both of its parts are. -/
theorem Run.bind_eq_done {α β : Type} {r : Run α} {f : State → α → Run β} {t : State} {b : β} :
    r.bind f = .done t b ↔ ∃ u a, r = .done u a ∧ f u a = .done t b := by
  cases r <;> simp

/-- A sequence raises when its first part does, or when that is done and its second part does. -/
theorem Run.bind_eq_raised {α β : Type} {r : Run α} {f : State → α → Run β} {t : State}
    {k : FaultKind} {p : Option Nat} :
    r.bind f = .raised t k p ↔ r = .raised t k p ∨ ∃ u a, r = .done u a ∧ f u a = .raised t k p := by
  cases r <;> simp

@[simp] theorem Run.finish_done (s : State) (v : Word) :
    (Run.done s v).finish = .next (s.respond .ok v) := rfl

@[simp] theorem Run.finish_raised (s : State) (k : FaultKind) (p : Option Nat) :
    (Run.raised s k p : Run Word).finish = .next ((s.raise k p).respond (.fault k) 0#64) := rfl

@[simp] theorem Run.finish_stuck (e : Fault) : (Run.stuck e : Run Word).finish = .fault e := rfl

/-- A run that answers a next state was done or raised a fault (R73, R198). -/
theorem Run.finish_next {r : Run Word} {t : State} (h : r.finish = .next t) :
    (∃ s v, r = .done s v ∧ t = s.respond .ok v) ∨
    (∃ s k p, r = .raised s k p ∧ t = (s.raise k p).respond (.fault k) 0#64) := by
  cases r with
  | done s v => exact .inl ⟨s, v, rfl, by simpa using h.symm⟩
  | raised s k p => exact .inr ⟨s, k, p, rfl, by simpa using h.symm⟩
  | stuck e => simp at h

/-! ## The order of checks (R199) -/

@[simp] theorem require_true {α : Type} (s : State) (r : Run α) : require true s r = r := rfl

@[simp] theorem require_false {α : Type} (s : State) (r : Run α) :
    require false s r = .raised s .illegalCommand none := rfl

/-- The fault state refuses the command (R200). -/
theorem command_of_fault {l : Bool} {body : State → Run Word} {s : State} (h : s.fault ≠ none) :
    command l body s = .next s.refuse := by
  obtain ⟨k, hk⟩ := Option.ne_none_iff_exists'.mp h
  simp [command, hk]

/-- Outside the fault state the pseudocode decides (R199). -/
theorem command_of_ok {body : State → Run Word} {s : State} (h : s.fault = none) :
    command true body s = (body s).finish := by simp [command, h]

/-- Outside the fault state an operand out of range is IllegalCommand (R196, R199 step 4). -/
theorem command_illegal {body : State → Run Word} {s : State} (h : s.fault = none) :
    command false body s = .next ((s.raise .illegalCommand none).respond (.fault .illegalCommand) 0#64) := by
  simp [command, h]

/-- Everything a command can answer: refused, illegal, done, or a fault taken. -/
theorem command_next {l : Bool} {body : State → Run Word} {s t : State}
    (h : command l body s = .next t) :
    (s.fault ≠ none ∧ t = s.refuse) ∨
    (s.fault = none ∧ l = false ∧
      t = (s.raise .illegalCommand none).respond (.fault .illegalCommand) 0#64) ∨
    (s.fault = none ∧ l = true ∧ ∃ u v, body s = .done u v ∧ t = u.respond .ok v) ∨
    (s.fault = none ∧ l = true ∧ ∃ u k p, body s = .raised u k p ∧
      t = (u.raise k p).respond (.fault k) 0#64) := by
  by_cases hf : s.fault = none
  · cases l with
    | false =>
      rw [command_illegal hf] at h
      exact .inr (.inl ⟨hf, rfl, by simpa using h.symm⟩)
    | true =>
      rw [command_of_ok hf] at h
      rcases Run.finish_next h with ⟨u, v, hb, ht⟩ | ⟨u, k, p, hb, ht⟩
      · exact .inr (.inr (.inl ⟨hf, rfl, u, v, hb, ht⟩))
      · exact .inr (.inr (.inr ⟨hf, rfl, u, k, p, hb, ht⟩))
  · rw [command_of_fault hf] at h
    exact .inl ⟨hf, by simpa using h.symm⟩

/-! ## Bit Streams -/

/-- Everything `append_bit` can do (R100). -/
theorem appendBit_cases (k : Slot) (v : Bool) (s : State) :
    (s.len k = s.bsCap ∧ appendBit k v s = .raised s .capacityExceeded none) ∨
    (s.len k ≠ s.bsCap ∧ appendBit k v s = .done (s.setBits k (s.bits k ++ [v])) ()) := by
  by_cases h : s.len k = s.bsCap
  · exact .inl ⟨h, if_pos h⟩
  · exact .inr ⟨h, if_neg h⟩

@[simp] theorem State.setBits_setBits (s : State) (k : Slot) (b c : Bits) :
    (s.setBits k b).setBits k c = s.setBits k c := by cases k <;> rfl

@[simp] theorem State.setBits_self (s : State) (k : Slot) : s.setBits k (s.bits k) = s := by
  cases k <;> rfl

/-- A multi-bit append that fits appends all its bits (R100, D38). -/
theorem appendBits_done (k : Slot) (bs : Bits) (s : State) (h : s.len k + bs.length ≤ s.bsCap) :
    appendBits k bs s = .done (s.setBits k (s.bits k ++ bs)) () := by
  induction bs generalizing s with
  | nil => simp [appendBits]
  | cons v vs ih =>
    simp only [List.length_cons, State.len_eq] at h
    have hne : s.len k ≠ s.bsCap := by simp only [State.len_eq]; omega
    have hd : appendBit k v s = .done (s.setBits k (s.bits k ++ [v])) () := if_neg hne
    rw [appendBits, hd, Run.bind_done, ih]
    · simp
    · simp; omega

/-- A multi-bit append that does not fit fills the slot and raises CapacityExceeded (R100, D38). -/
theorem appendBits_raised (k : Slot) (bs : Bits) (s : State) (hc : s.len k ≤ s.bsCap)
    (h : s.bsCap < s.len k + bs.length) :
    appendBits k bs s =
      .raised (s.setBits k ((s.bits k ++ bs).take s.bsCap)) .capacityExceeded none := by
  induction bs generalizing s with
  | nil => simp only [List.length_nil] at h; omega
  | cons v vs ih =>
    simp only [List.length_cons, State.len_eq] at h hc
    by_cases he : s.len k = s.bsCap
    · have hd : appendBit k v s = .raised s .capacityExceeded none := if_pos he
      have ht : (s.bits k ++ v :: vs).take s.bsCap = s.bits k := by
        rw [← he, State.len_eq, List.take_left']; rfl
      rw [appendBits, hd, Run.bind_raised, ht, State.setBits_self]
    · have hd : appendBit k v s = .done (s.setBits k (s.bits k ++ [v])) () := if_neg he
      simp only [State.len_eq] at he
      rw [appendBits, hd, Run.bind_done, ih]
      · simp
      · simp; omega
      · simp; omega

/-- Everything `from_bytes` can do (R106). -/
theorem fromBytes_cases (k : Slot) (B : List Byte) (n : Nat) (pos : Option Nat) (s : State) :
    (B.length ≠ ceil8 n ∧ fromBytes k B n pos s = .raised s .corruptStream pos) ∨
    (B.length = ceil8 n ∧ n > s.bsCap ∧ fromBytes k B n pos s = .raised s .capacityExceeded none) ∨
    (B.length = ceil8 n ∧ n ≤ s.bsCap ∧
      fromBytes k B n pos s = .done ((s.setBits k (unpack B n)).setCur k 0) ()) := by
  unfold fromBytes
  by_cases h1 : B.length = ceil8 n
  · by_cases h2 : n > s.bsCap
    · simp [h1, h2]
    · simp [h1, h2]; omega
  · simp [h1]

@[simp] theorem pack_length (b : Bits) : (pack b).length = ceil8 b.length := by simp [pack]

@[simp] theorem unpack_length (B : List Byte) (L : Nat) : (unpack B L).length = L := by simp [unpack]

@[simp] theorem beBytes_length (n v : Nat) : (beBytes n v).length = n := by simp [beBytes]

/-! ## The Frequency Table -/

/-- Everything the append of an entry can do (R92). -/
theorem putEntry_cases (sym : Symbol) (cnt : Word32) (s : State) :
    (s.ft.length = s.ftCap ∧ putEntry sym cnt s = .raised s .capacityExceeded none) ∨
    (s.ft.length ≠ s.ftCap ∧
      putEntry sym cnt s = .done (s.setTable (s.ft ++ [⟨sym, cnt⟩])) (num s.ft.length)) := by
  by_cases h : s.ft.length = s.ftCap
  · exact .inl ⟨h, if_pos h⟩
  · exact .inr ⟨h, if_neg h⟩

/-- A search that hits gives the least index with the symbol (R91, R141). -/
theorem findSym_eq_some {ft : List Entry} {sym : Symbol} {i : Nat} :
    findSym ft sym = some i ↔
      ∃ h : i < ft.length, ft[i].sym = sym ∧ ∀ j, (hj : j < i) → ft[j].sym ≠ sym := by
  simp [findSym, List.findIdx?_eq_some_iff_getElem]

/-- A search misses exactly when no entry has the symbol (R91, R141). -/
theorem findSym_eq_none {ft : List Entry} {sym : Symbol} :
    findSym ft sym = none ↔ ∀ e ∈ ft, e.sym ≠ sym := by
  simp [findSym, List.findIdx?_eq_none_iff]

/-- Everything counting a character can do (R91): an increment in place, an appended entry, or
CapacityExceeded with nothing changed. -/
theorem countSymbol_cases (sym : Symbol) (s : State) :
    (∃ i e, findSym s.ft sym = some i ∧ s.ft[i]? = some e ∧ e.cnt ≠ 0xFFFFFFFF#32 ∧
      countSymbol sym s = .done (s.setTable (s.ft.set i ⟨sym, e.cnt + 1#32⟩)) (num i)) ∨
    (findSym s.ft sym = none ∧ s.ft.length ≠ s.ftCap ∧
      countSymbol sym s = .done (s.setTable (s.ft ++ [⟨sym, 1#32⟩])) (num s.ft.length)) ∨
    countSymbol sym s = .raised s .capacityExceeded none := by
  unfold countSymbol
  cases h : findSym s.ft sym with
  | none =>
    by_cases hc : s.ft.length = s.ftCap
    · simp [hc]
    · simp [hc]
  | some i =>
    obtain ⟨hi, -, -⟩ := findSym_eq_some.mp h
    by_cases hc : (s.ft[i]).cnt = 0xFFFFFFFF#32
    · simp [List.getD, hi, hc]
    · refine .inl ⟨i, s.ft[i], rfl, by simp [hi], hc, ?_⟩
      simp [List.getD, hi, hc]

/-! ## The tree builder -/

/-- The queue order is irreflexive (R121). -/
theorem QElem.before_irrefl (x : QElem) : x.before x = false := by simp [QElem.before]

/-- There is a least element unless the queue is empty (R121). -/
theorem extractMin_eq_none {q : List QElem} : extractMin q = none ↔ q = [] := by
  cases q with
  | nil => simp [extractMin]
  | cons x xs =>
    simp only [extractMin]
    cases extractMin xs with
    | none => simp
    | some p => by_cases h : x.before p.1 <;> simp [h]

/-- Extraction takes one element out of the queue and leaves the others in their order (R121). -/
theorem extractMin_perm {q rest : List QElem} {m : QElem} (h : extractMin q = some (m, rest)) :
    q.Perm (m :: rest) ∧ rest.Sublist q := by
  induction q generalizing m rest with
  | nil => simp [extractMin] at h
  | cons x xs ih =>
    simp only [extractMin] at h
    cases hx : extractMin xs with
    | none =>
      rw [hx] at h
      simp only [Option.some.injEq, Prod.mk.injEq] at h
      obtain ⟨rfl, rfl⟩ := h
      rw [extractMin_eq_none] at hx
      subst hx
      exact ⟨.refl _, List.nil_sublist _⟩
    | some p =>
      obtain ⟨m', r'⟩ := p
      rw [hx] at h
      by_cases hb : x.before m' <;> simp only [hb, if_true, if_false, Bool.false_eq_true,
        Option.some.injEq, Prod.mk.injEq] at h
      · obtain ⟨rfl, rfl⟩ := h
        exact ⟨.refl _, List.sublist_cons_self _ _⟩
      · obtain ⟨rfl, rfl⟩ := h
        obtain ⟨hp, hs⟩ := ih hx
        exact ⟨(hp.cons x).trans (.swap _ _ _), hs.cons_cons x⟩

/-- Extraction makes the queue one shorter. -/
theorem extractMin_length {q rest : List QElem} {m : QElem} (h : extractMin q = some (m, rest)) :
    q.length = rest.length + 1 := by simpa using (extractMin_perm h).1.length_eq

/-- Everything a merge step can do (R123): stop on a queue of fewer than two, or combine the first two
extracted. -/
theorem mergeStep_cases (s : State) :
    (s.pq.length < 2 ∧ mergeStep s = .stuck .queueTooShort) ∨
    (∃ a b q1 q2, extractMin s.pq = some (a, q1) ∧ extractMin q1 = some (b, q2) ∧
      mergeStep s =
        .done (if q2.length = 0 then (combine a b q2 s).treeValid s.nd.length else combine a b q2 s)
          (num (q2.length + 1))) := by
  unfold mergeStep
  cases h1 : extractMin s.pq with
  | none =>
    rw [extractMin_eq_none] at h1
    simp [h1]
  | some p =>
    obtain ⟨a, q1⟩ := p
    have hl := extractMin_length h1
    cases h2 : extractMin q1 with
    | none =>
      rw [extractMin_eq_none] at h2
      subst h2
      simp only [List.length_nil] at hl
      exact .inl ⟨by omega, by simp [extractMin]⟩
    | some r =>
      obtain ⟨b, q2⟩ := r
      refine .inr ⟨a, b, q1, q2, rfl, h2, ?_⟩
      by_cases hz : q2 = []
      · simp [h2, hz]
      · simp [h2, hz]

/-! ## The container -/

/-- Everything `need` can do (R164). -/
theorem need_cases (n p : Nat) (s : State) :
    (s.buf.length - p < n ∧ need n p s = .raised s .corruptStream (some p)) ∨
    (n ≤ s.buf.length - p ∧ need n p s = .done s ()) := by
  by_cases h : s.buf.length - p < n
  · exact .inl ⟨h, if_pos h⟩
  · exact .inr ⟨by omega, if_neg h⟩

/-- What decodes is a scalar value, and the bytes are its UTF-8 form (R162). -/
theorem utf8Decode_eq_some {U : List Byte} {c : Symbol} (h : utf8Decode U = some c) :
    isScalar c = true ∧ utf8 c = U := by
  unfold utf8Decode at h
  cases hc : utf8Candidate U with
  | none => simp [hc] at h
  | some d =>
    rw [hc] at h
    simp only [Option.ite_none_right_eq_some, Bool.and_eq_true, beq_iff_eq, Option.some.injEq] at h
    obtain ⟨⟨h1, h2⟩, rfl⟩ := h
    exact ⟨h1, h2⟩

/-! ## The status registers -/

/-- A status register number that does not exist reads nothing (R35). -/
theorem readRegister_eq_none {s : State} {r : BitVec 8} (h : 21 < r.toNat) :
    readRegister s r = none := by
  unfold readRegister
  split <;> first | omega | rfl

end Sys2Proof.Machine
end

