-- ==== Sys2Proof/Laws/PerInstr.lean ====
section
/-! SUPPORT. The per-instruction family FitsRow: the encoder's word of a command fits its row of the opcode
map (30_encoding.md R72, R75). -/

namespace Sys2Proof

/-- A mask acts on the three fields of a word separately. -/
theorem assemble_and (op m1 : BitVec 8) (a m2 : BitVec 24) (b m3 : Word32) :
    assemble op a b &&& assemble m1 m2 m3 = assemble (op &&& m1) (a &&& m2) (b &&& m3) := by
  show ((op ++ a) ++ b : BitVec (8 + 24 + 32)) &&& ((m1 ++ m2) ++ m3) = (op &&& m1) ++ (a &&& m2) ++ (b &&& m3)
  rw [BitVec.and_append, BitVec.and_append]

/-- `op << 56` is the opcode with both operand fields zero. -/
theorem matchBits_eq (op : BitVec 8) : matchBits op = assemble op 0#24 0#32 := by
  apply BitVec.eq_of_toNat_eq
  have := op.isLt
  show (op.setWidth 64 <<< 56).toNat = ((op ++ 0#24) ++ 0#32 : BitVec (8 + 24 + 32)).toNat
  rw [BitVec.toNat_append, BitVec.toNat_append]
  simp [Nat.shiftLeft_eq]
  omega

/-- A word fits a format when its fields vanish on the format's mask. -/
theorem fits_of_fields {f : Format} {op : BitVec 8} {a m2 : BitVec 24} {b m3 : Word32}
    (hm : f.mask = assemble 0xFF#8 m2 m3) (ha : a &&& m2 = 0#24) (hb : b &&& m3 = 0#32) :
    assemble op a b &&& f.mask = matchBits op := by
  have ho : op &&& 0xFF#8 = op := BitVec.and_allOnes (x := op)
  rw [hm, assemble_and, ho, ha, hb, matchBits_eq]

theorem putS_mask (k : Slot) : putS k &&& 0x7FFFFF#24 = 0#24 := by cases k <;> decide

theorem putT_mask (j : Slot) : putT j &&& 0xFFFFFFFE#32 = 0#32 := by cases j <;> decide

theorem putSym_mask (sym : Symbol) : putSym sym &&& 0xE00000#24 = 0#24 := by
  show (0#3 ++ sym : BitVec 24) &&& (7#3 ++ 0#21) = 0#3 ++ 0#21
  rw [BitVec.and_append]; simp

theorem putSSym_mask (k : Slot) (sym : Symbol) : putSSym k sym &&& 0x600000#24 = 0#24 := by
  show (k.bit ++ 0#2 ++ sym : BitVec 24) &&& (0#1 ++ 3#2 ++ 0#21) = 0#1 ++ 0#2 ++ 0#21
  rw [BitVec.and_append, BitVec.and_append]; simp

theorem putByte_mask (byte : Byte) : putByte byte &&& 0xFFFF00#24 = 0#24 := by
  show (0#16 ++ byte : BitVec 24) &&& (0xFFFF#16 ++ 0#8) = 0#16 ++ 0#8
  rw [BitVec.and_append]; simp

theorem putR_mask (r : BitVec 8) : putR r &&& 0xFFFFFF00#32 = 0#32 := by
  show (0#24 ++ r : BitVec 32) &&& (0xFFFFFF#24 ++ 0#8) = 0#24 ++ 0#8
  rw [BitVec.and_append]; simp

end Sys2Proof

namespace Sys2Proof.Laws.FitsRow

/-- The word of a command has its opcode and zero must-be-zero bits, and its opcode and format are a row
of the opcode map (R72, R75). -/
def Statement (i : Instr) : Prop :=
  encode i &&& i.format.mask = matchBits i.opcode ∧ (i.opcode, i.format) ∈ opcodeTable

theorem sysRst : Statement (.sysRst) :=
  ⟨fits_of_fields (m2 := 0xFFFFFF#24) (m3 := 0xFFFFFFFF#32) rfl BitVec.zero_and BitVec.zero_and, (by decide : (0x01#8, Format.n) ∈ opcodeTable)⟩

theorem sysRd (r : BitVec 8) : Statement (.sysRd r) :=
  ⟨fits_of_fields (m2 := 0xFFFFFF#24) (m3 := 0xFFFFFF00#32) rfl BitVec.zero_and (putR_mask r), (by decide : (0x02#8, Format.r) ∈ opcodeTable)⟩

theorem ftClr : Statement (.ftClr) :=
  ⟨fits_of_fields (m2 := 0xFFFFFF#24) (m3 := 0xFFFFFFFF#32) rfl BitVec.zero_and BitVec.zero_and, (by decide : (0x10#8, Format.n) ∈ opcodeTable)⟩

theorem ftCnt (sym : Symbol) : Statement (.ftCnt sym) :=
  ⟨fits_of_fields (m2 := 0xE00000#24) (m3 := 0xFFFFFFFF#32) rfl (putSym_mask sym) BitVec.zero_and, (by decide : (0x11#8, Format.y) ∈ opcodeTable)⟩

theorem ftPut (sym : Symbol) (v : Word32) : Statement (.ftPut sym v) :=
  ⟨fits_of_fields (m2 := 0xE00000#24) (m3 := 0#32) rfl (putSym_mask sym) BitVec.and_zero, (by decide : (0x12#8, Format.yb) ∈ opcodeTable)⟩

theorem ftSym (idx : Word32) : Statement (.ftSym idx) :=
  ⟨fits_of_fields (m2 := 0xFFFFFF#24) (m3 := 0#32) rfl BitVec.zero_and BitVec.and_zero, (by decide : (0x13#8, Format.b) ∈ opcodeTable)⟩

theorem ftFrq (idx : Word32) : Statement (.ftFrq idx) :=
  ⟨fits_of_fields (m2 := 0xFFFFFF#24) (m3 := 0#32) rfl BitVec.zero_and BitVec.and_zero, (by decide : (0x14#8, Format.b) ∈ opcodeTable)⟩

theorem bsClr (k : Slot) : Statement (.bsClr k) :=
  ⟨fits_of_fields (m2 := 0x7FFFFF#24) (m3 := 0xFFFFFFFF#32) rfl (putS_mask k) BitVec.zero_and, (by decide : (0x20#8, Format.s) ∈ opcodeTable)⟩

theorem bsApp (k : Slot) (v : Word32) : Statement (.bsApp k v) :=
  ⟨fits_of_fields (m2 := 0x7FFFFF#24) (m3 := 0#32) rfl (putS_mask k) BitVec.and_zero, (by decide : (0x21#8, Format.sb) ∈ opcodeTable)⟩

theorem bsExt (k : Slot) (j : Slot) : Statement (.bsExt k j) :=
  ⟨fits_of_fields (m2 := 0x7FFFFF#24) (m3 := 0xFFFFFFFE#32) rfl (putS_mask k) (putT_mask j), (by decide : (0x22#8, Format.ss) ∈ opcodeTable)⟩

theorem bsGet (k : Slot) (idx : Word32) : Statement (.bsGet k idx) :=
  ⟨fits_of_fields (m2 := 0x7FFFFF#24) (m3 := 0#32) rfl (putS_mask k) BitVec.and_zero, (by decide : (0x23#8, Format.sb) ∈ opcodeTable)⟩

theorem bsTob (k : Slot) : Statement (.bsTob k) :=
  ⟨fits_of_fields (m2 := 0x7FFFFF#24) (m3 := 0xFFFFFFFF#32) rfl (putS_mask k) BitVec.zero_and, (by decide : (0x24#8, Format.s) ∈ opcodeTable)⟩

theorem bsFrb (k : Slot) (v : Word32) : Statement (.bsFrb k v) :=
  ⟨fits_of_fields (m2 := 0x7FFFFF#24) (m3 := 0#32) rfl (putS_mask k) BitVec.and_zero, (by decide : (0x25#8, Format.sb) ∈ opcodeTable)⟩

theorem bsFrba (k : Slot) : Statement (.bsFrba k) :=
  ⟨fits_of_fields (m2 := 0x7FFFFF#24) (m3 := 0xFFFFFFFF#32) rfl (putS_mask k) BitVec.zero_and, (by decide : (0x26#8, Format.s) ∈ opcodeTable)⟩

theorem bsEq (k : Slot) (j : Slot) : Statement (.bsEq k j) :=
  ⟨fits_of_fields (m2 := 0x7FFFFF#24) (m3 := 0xFFFFFFFE#32) rfl (putS_mask k) (putT_mask j), (by decide : (0x27#8, Format.ss) ∈ opcodeTable)⟩

theorem bsHash (k : Slot) : Statement (.bsHash k) :=
  ⟨fits_of_fields (m2 := 0x7FFFFF#24) (m3 := 0xFFFFFFFF#32) rfl (putS_mask k) BitVec.zero_and, (by decide : (0x28#8, Format.s) ∈ opcodeTable)⟩

theorem bsRwd (k : Slot) : Statement (.bsRwd k) :=
  ⟨fits_of_fields (m2 := 0x7FFFFF#24) (m3 := 0xFFFFFFFF#32) rfl (putS_mask k) BitVec.zero_and, (by decide : (0x29#8, Format.s) ∈ opcodeTable)⟩

theorem bsNxt (k : Slot) : Statement (.bsNxt k) :=
  ⟨fits_of_fields (m2 := 0x7FFFFF#24) (m3 := 0xFFFFFFFF#32) rfl (putS_mask k) BitVec.zero_and, (by decide : (0x2A#8, Format.s) ∈ opcodeTable)⟩

theorem bufClr : Statement (.bufClr) :=
  ⟨fits_of_fields (m2 := 0xFFFFFF#24) (m3 := 0xFFFFFFFF#32) rfl BitVec.zero_and BitVec.zero_and, (by decide : (0x30#8, Format.n) ∈ opcodeTable)⟩

theorem bufPush (byte : Byte) : Statement (.bufPush byte) :=
  ⟨fits_of_fields (m2 := 0xFFFF00#24) (m3 := 0xFFFFFFFF#32) rfl (putByte_mask byte) BitVec.zero_and, (by decide : (0x31#8, Format.c) ∈ opcodeTable)⟩

theorem bufLd (idx : Word32) : Statement (.bufLd idx) :=
  ⟨fits_of_fields (m2 := 0xFFFFFF#24) (m3 := 0#32) rfl BitVec.zero_and BitVec.and_zero, (by decide : (0x32#8, Format.b) ∈ opcodeTable)⟩

theorem bufSt (byte : Byte) (idx : Word32) : Statement (.bufSt byte idx) :=
  ⟨fits_of_fields (m2 := 0xFFFF00#24) (m3 := 0#32) rfl (putByte_mask byte) BitVec.and_zero, (by decide : (0x33#8, Format.cb) ∈ opcodeTable)⟩

theorem bufTrn (v : Word32) : Statement (.bufTrn v) :=
  ⟨fits_of_fields (m2 := 0xFFFFFF#24) (m3 := 0#32) rfl BitVec.zero_and BitVec.and_zero, (by decide : (0x34#8, Format.b) ∈ opcodeTable)⟩

theorem txtClr : Statement (.txtClr) :=
  ⟨fits_of_fields (m2 := 0xFFFFFF#24) (m3 := 0xFFFFFFFF#32) rfl BitVec.zero_and BitVec.zero_and, (by decide : (0x38#8, Format.n) ∈ opcodeTable)⟩

theorem txtPush (sym : Symbol) : Statement (.txtPush sym) :=
  ⟨fits_of_fields (m2 := 0xE00000#24) (m3 := 0xFFFFFFFF#32) rfl (putSym_mask sym) BitVec.zero_and, (by decide : (0x39#8, Format.y) ∈ opcodeTable)⟩

theorem txtLd (idx : Word32) : Statement (.txtLd idx) :=
  ⟨fits_of_fields (m2 := 0xFFFFFF#24) (m3 := 0#32) rfl BitVec.zero_and BitVec.and_zero, (by decide : (0x3A#8, Format.b) ∈ opcodeTable)⟩

theorem htIni : Statement (.htIni) :=
  ⟨fits_of_fields (m2 := 0xFFFFFF#24) (m3 := 0xFFFFFFFF#32) rfl BitVec.zero_and BitVec.zero_and, (by decide : (0x40#8, Format.n) ∈ opcodeTable)⟩

theorem htMrg : Statement (.htMrg) :=
  ⟨fits_of_fields (m2 := 0xFFFFFF#24) (m3 := 0xFFFFFFFF#32) rfl BitVec.zero_and BitVec.zero_and, (by decide : (0x41#8, Format.n) ∈ opcodeTable)⟩

theorem htBld : Statement (.htBld) :=
  ⟨fits_of_fields (m2 := 0xFFFFFF#24) (m3 := 0xFFFFFFFF#32) rfl BitVec.zero_and BitVec.zero_and, (by decide : (0x42#8, Format.n) ∈ opcodeTable)⟩

theorem htDis : Statement (.htDis) :=
  ⟨fits_of_fields (m2 := 0xFFFFFF#24) (m3 := 0xFFFFFFFF#32) rfl BitVec.zero_and BitVec.zero_and, (by decide : (0x43#8, Format.n) ∈ opcodeTable)⟩

theorem htNdk (idx : Word32) : Statement (.htNdk idx) :=
  ⟨fits_of_fields (m2 := 0xFFFFFF#24) (m3 := 0#32) rfl BitVec.zero_and BitVec.and_zero, (by decide : (0x44#8, Format.b) ∈ opcodeTable)⟩

theorem htNdf (idx : Word32) : Statement (.htNdf idx) :=
  ⟨fits_of_fields (m2 := 0xFFFFFF#24) (m3 := 0#32) rfl BitVec.zero_and BitVec.and_zero, (by decide : (0x45#8, Format.b) ∈ opcodeTable)⟩

theorem htNdl (idx : Word32) : Statement (.htNdl idx) :=
  ⟨fits_of_fields (m2 := 0xFFFFFF#24) (m3 := 0#32) rfl BitVec.zero_and BitVec.and_zero, (by decide : (0x46#8, Format.b) ∈ opcodeTable)⟩

theorem htNdr (idx : Word32) : Statement (.htNdr idx) :=
  ⟨fits_of_fields (m2 := 0xFFFFFF#24) (m3 := 0#32) rfl BitVec.zero_and BitVec.and_zero, (by decide : (0x47#8, Format.b) ∈ opcodeTable)⟩

theorem cbDrv : Statement (.cbDrv) :=
  ⟨fits_of_fields (m2 := 0xFFFFFF#24) (m3 := 0xFFFFFFFF#32) rfl BitVec.zero_and BitVec.zero_and, (by decide : (0x50#8, Format.n) ∈ opcodeTable)⟩

theorem encSym (k : Slot) (sym : Symbol) : Statement (.encSym k sym) :=
  ⟨fits_of_fields (m2 := 0x600000#24) (m3 := 0xFFFFFFFF#32) rfl (putSSym_mask k sym) BitVec.zero_and, (by decide : (0x51#8, Format.sy) ∈ opcodeTable)⟩

theorem encRun (k : Slot) : Statement (.encRun k) :=
  ⟨fits_of_fields (m2 := 0x7FFFFF#24) (m3 := 0xFFFFFFFF#32) rfl (putS_mask k) BitVec.zero_and, (by decide : (0x52#8, Format.s) ∈ opcodeTable)⟩

theorem decRst : Statement (.decRst) :=
  ⟨fits_of_fields (m2 := 0xFFFFFF#24) (m3 := 0xFFFFFFFF#32) rfl BitVec.zero_and BitVec.zero_and, (by decide : (0x60#8, Format.n) ∈ opcodeTable)⟩

theorem decBit (v : Word32) : Statement (.decBit v) :=
  ⟨fits_of_fields (m2 := 0xFFFFFF#24) (m3 := 0#32) rfl BitVec.zero_and BitVec.and_zero, (by decide : (0x61#8, Format.b) ∈ opcodeTable)⟩

theorem decEnd : Statement (.decEnd) :=
  ⟨fits_of_fields (m2 := 0xFFFFFF#24) (m3 := 0xFFFFFFFF#32) rfl BitVec.zero_and BitVec.zero_and, (by decide : (0x62#8, Format.n) ∈ opcodeTable)⟩

theorem decRun (k : Slot) : Statement (.decRun k) :=
  ⟨fits_of_fields (m2 := 0x7FFFFF#24) (m3 := 0xFFFFFFFF#32) rfl (putS_mask k) BitVec.zero_and, (by decide : (0x63#8, Format.s) ∈ opcodeTable)⟩

theorem czWr (k : Slot) : Statement (.czWr k) :=
  ⟨fits_of_fields (m2 := 0x7FFFFF#24) (m3 := 0xFFFFFFFF#32) rfl (putS_mask k) BitVec.zero_and, (by decide : (0x70#8, Format.s) ∈ opcodeTable)⟩

theorem czRd (k : Slot) : Statement (.czRd k) :=
  ⟨fits_of_fields (m2 := 0x7FFFFF#24) (m3 := 0xFFFFFFFF#32) rfl (putS_mask k) BitVec.zero_and, (by decide : (0x71#8, Format.s) ∈ opcodeTable)⟩

end Sys2Proof.Laws.FitsRow
end

