-- ==== Sys2Proof/Tests/Slice0.lean ====
section
/-! SUPPORT. The model's own tests: the WellFormed smoke test, one written word per command, the worked
examples of spec/ one step each, and for every statement with hypotheses a witness that they can be met. -/

open Sys2Proof Sys2Proof.Machine

namespace Sys2Proof.Tests

/-! ## WellFormed (30_encoding.md R76 c to f) -/

theorem test_wellFormed_sysRd :
    (Instr.sysRd 21#8).wellFormed = true ∧ (Instr.sysRd 22#8).wellFormed = false := by decide

theorem test_wellFormed_ftCnt :
    (Instr.ftCnt 0xD7FF#21).wellFormed = true ∧ (Instr.ftCnt 0xD800#21).wellFormed = false ∧
    (Instr.ftCnt 0xDFFF#21).wellFormed = false ∧ (Instr.ftCnt 0xE000#21).wellFormed = true ∧
    (Instr.ftCnt 0x10FFFF#21).wellFormed = true ∧ (Instr.ftCnt 0x110000#21).wellFormed = false := by decide

theorem test_wellFormed_ftPut :
    (Instr.ftPut 0x61#21 1#32).wellFormed = true ∧ (Instr.ftPut 0x61#21 0#32).wellFormed = false ∧
    (Instr.ftPut 0xD800#21 1#32).wellFormed = false := by decide

theorem test_wellFormed_bsExt :
    (Instr.bsExt .bs0 .bs1).wellFormed = true ∧ (Instr.bsExt .bs0 .bs0).wellFormed = false ∧
    (Instr.bsExt .bs1 .bs1).wellFormed = false := by decide

theorem test_wellFormed_txtPush :
    (Instr.txtPush 0x20AC#21).wellFormed = true ∧ (Instr.txtPush 0xDABC#21).wellFormed = false := by decide

theorem test_wellFormed_encSym :
    (Instr.encSym .bs0 0x61#21).wellFormed = true ∧
    (Instr.encSym .bs0 0x1FFFFF#21).wellFormed = false := by decide

/-! ## Decoding: one word of every command, written from R70 to R75 (`op << 56 | s << 55 | sym << 32 |
byte << 32 | b`, R78); words of the examples of R78, R163, R178 and 95_test_vectors.md where there are any. -/

theorem test_decode_sys :
    decode 0x0100000000000000#64 = .ok .sysRst ∧ decode 0x0200000000000011#64 = .ok (.sysRd 17#8) := by decide

theorem test_decode_ft :
    decode 0x1000000000000000#64 = .ok .ftClr ∧ decode 0x1100006100000000#64 = .ok (.ftCnt 0x61#21) ∧
    decode 0x1200006200000003#64 = .ok (.ftPut 0x62#21 3#32) ∧
    decode 0x1300000000000001#64 = .ok (.ftSym 1#32) ∧ decode 0x1400000000000001#64 = .ok (.ftFrq 1#32) := by
  decide

theorem test_decode_bs :
    decode 0x2080000000000000#64 = .ok (.bsClr .bs1) ∧
    decode 0x2180000000000001#64 = .ok (.bsApp .bs1 1#32) ∧
    decode 0x2200000000000001#64 = .ok (.bsExt .bs0 .bs1) ∧
    decode 0x2300000000000009#64 = .ok (.bsGet .bs0 9#32) ∧
    decode 0x2480000000000000#64 = .ok (.bsTob .bs1) ∧
    decode 0x2580000000000009#64 = .ok (.bsFrb .bs1 9#32) := by decide

theorem test_decode_bs2 :
    decode 0x2600000000000000#64 = .ok (.bsFrba .bs0) ∧
    decode 0x2780000000000000#64 = .ok (.bsEq .bs1 .bs0) ∧
    decode 0x2880000000000000#64 = .ok (.bsHash .bs1) ∧
    decode 0x2900000000000000#64 = .ok (.bsRwd .bs0) ∧
    decode 0x2A80000000000000#64 = .ok (.bsNxt .bs1) := by decide

theorem test_decode_buf :
    decode 0x3000000000000000#64 = .ok .bufClr ∧ decode 0x3100006900000000#64 = .ok (.bufPush 0x69#8) ∧
    decode 0x3200000000000014#64 = .ok (.bufLd 20#32) ∧
    decode 0x3300000A00000013#64 = .ok (.bufSt 0x0A#8 19#32) ∧
    decode 0x3400000000000015#64 = .ok (.bufTrn 21#32) := by decide

theorem test_decode_txt :
    decode 0x3800000000000000#64 = .ok .txtClr ∧ decode 0x390020AC00000000#64 = .ok (.txtPush 0x20AC#21) ∧
    decode 0x3A00000000000001#64 = .ok (.txtLd 1#32) := by decide

theorem test_decode_ht :
    decode 0x4000000000000000#64 = .ok .htIni ∧ decode 0x4100000000000000#64 = .ok .htMrg ∧
    decode 0x4200000000000000#64 = .ok .htBld ∧ decode 0x4300000000000000#64 = .ok .htDis ∧
    decode 0x4400000000000002#64 = .ok (.htNdk 2#32) ∧ decode 0x4500000000000002#64 = .ok (.htNdf 2#32) ∧
    decode 0x4600000000000002#64 = .ok (.htNdl 2#32) ∧ decode 0x4700000000000002#64 = .ok (.htNdr 2#32) := by
  decide

theorem test_decode_enc :
    decode 0x5000000000000000#64 = .ok .cbDrv ∧
    decode 0x5180006200000000#64 = .ok (.encSym .bs1 0x62#21) ∧
    decode 0x5200000000000000#64 = .ok (.encRun .bs0) := by decide

theorem test_decode_dec :
    decode 0x6000000000000000#64 = .ok .decRst ∧ decode 0x6100000000000001#64 = .ok (.decBit 1#32) ∧
    decode 0x6200000000000000#64 = .ok .decEnd ∧ decode 0x6380000000000000#64 = .ok (.decRun .bs1) := by decide

theorem test_decode_cz :
    decode 0x7000000000000000#64 = .ok (.czWr .bs0) ∧ decode 0x7180000000000000#64 = .ok (.czRd .bs1) := by
  decide

/-- R76 a and b: words the decoder refuses. -/
theorem test_decode_refuses :
    decode 0x0000000000000000#64 = .error .undefinedOpcode ∧
    decode 0x2B00000000000000#64 = .error .undefinedOpcode ∧
    decode 0x0100000000000001#64 = .error .mustBeZero ∧
    decode 0x1100006100000001#64 = .error .mustBeZero ∧
    decode 0x2000000100000000#64 = .error .mustBeZero ∧
    decode 0x2200000000000002#64 = .error .mustBeZero ∧
    decode 0x0200000000000100#64 = .error .mustBeZero := by decide

theorem test_encode :
    encode (.bsApp .bs1 1#32) = 0x2180000000000001#64 ∧
    encode (.ftPut 0x62#21 3#32) = 0x1200006200000003#64 := by decide

/-! ## The states of the tests -/

/-- The state an answer gives. -/
def after (a : Answer) : State :=
  match a with
  | .next t => t
  | .fault _ => State.reset
  | .refused _ => State.reset

/-- The answer is a next state. -/
def isNext (a : Answer) : Bool :=
  match a with
  | .next _ => true
  | .fault _ => false
  | .refused _ => false

/-- The last response of an answer. -/
def said (a : Answer) : Option Response := (after a).out.getLast?

/-- `ST = 0` with this value. -/
def ok (v : Nat) : Option Response := some ⟨.ok, BitVec.ofNat 64 v⟩

/-- `ST` of a fault, `VAL = 0`. -/
def failed (k : FaultKind) : Option Response := some ⟨.fault k, 0#64⟩

theorem next_after {a : Answer} (h : isNext a = true) : a = .next (after a) := by
  cases a <;> simp_all [isNext, after]

/-- `FT = [('a',2),('b',3)]` of the examples of spec/. -/
def ab : State := { State.reset with ft := [⟨0x61#21, 2#32⟩, ⟨0x62#21, 3#32⟩] }

/-- The nine bits of R54: `[0,1,1,0,1,0,0,1,1]`. -/
def nine : Bits := [false, true, true, false, true, false, false, true, true]

/-- The example of R163: the table `ab` and the nine bits in BS0. -/
def abNine : State := { ab with bs0 := nine }

/-- The 22 bytes of R163. -/
def abFile : List Byte :=
  [0x00#8, 0x02#8, 0x00#8, 0x01#8, 0x61#8, 0x00#8, 0x00#8, 0x00#8, 0x02#8, 0x00#8, 0x01#8, 0x62#8,
    0x00#8, 0x00#8, 0x00#8, 0x03#8, 0x00#8, 0x00#8, 0x00#8, 0x09#8, 0x69#8, 0x80#8]

/-- The text "abbab". -/
def abbab : List Symbol := [0x61#21, 0x62#21, 0x62#21, 0x61#21, 0x62#21]

/-- The tree of `ab` (the example of R123), complete. -/
def abTree : State :=
  { ab with
    nd := [.leaf 0x61#21 2, .leaf 0x62#21 3, .internal 5 0 1]
    pq := [⟨5, 2, 2⟩]
    nextSeq := 3
    root := 2
    walk := 2
    tst := .valid }

/-- The table `x 2, y 1, z 1` of R133 between its two merges, with something in every memory. -/
def xyzBuilding : State :=
  { State.reset with
    ft := [⟨0x78#21, 2#32⟩, ⟨0x79#21, 1#32⟩, ⟨0x7A#21, 1#32⟩]
    nd := [.leaf 0x78#21 2, .leaf 0x79#21 1, .leaf 0x7A#21 1, .internal 2 1 2]
    pq := [⟨2, 0, 0⟩, ⟨2, 3, 3⟩]
    nextSeq := 4
    tst := .building
    bs0 := [false, true, false, true, true]
    cur0 := 2
    bs1 := [true, false]
    cur1 := 2
    buf := [0x69#8, 0x80#8]
    txt := [0x78#21, 0x20AC#21]
    ftCap := 3
    bsCap := 6
    bufCap := 64
    txtCap := 3 }

/-- Its tree complete (R133), its codebook derived, and the walk one edge down (R151). -/
def xyz : State :=
  { xyzBuilding with
    nd := [.leaf 0x78#21 2, .leaf 0x79#21 1, .leaf 0x7A#21 1, .internal 2 1 2, .internal 4 0 3]
    pq := [⟨4, 4, 4⟩]
    nextSeq := 5
    root := 4
    walk := 3
    dpos := 1#32
    tst := .valid
    cb := [[false], [true, false], [true, true]]
    cvalid := true }

/-- The state after `BS.GET 0, 9` on the nine bits (R184): IndexOutOfRange at 9. -/
def broken : State := { abNine with fault := some .indexOutOfRange, fpos := 9#32, fposv := true }

theorem xyz_inv : xyz.Inv where
  caps := by decide
  table := by decide
  streams := by decide
  spaces := by decide
  faultRegs := by decide
  tree := ⟨by decide, by decide, by decide⟩
  treeOfTable := by decide
  codebook := by decide

theorem xyzBuilding_inv : xyzBuilding.Inv where
  caps := by decide
  table := by decide
  streams := by decide
  spaces := by decide
  faultRegs := by decide
  tree := ⟨by decide, by decide, by decide⟩
  treeOfTable := by decide
  codebook := by decide

/-! ## One step each: the worked examples of spec/ -/

/-- R183: after any fault, SYS.RST then FAULT is 0, and the capacities stay (R42). -/
theorem test_sysRst : (after (exec .sysRst { broken with bsCap := 7 })).fault = none ∧
    (after (exec .sysRst { broken with bsCap := 7 })).bs0 = [] ∧
    (after (exec .sysRst { broken with bsCap := 7 })).bsCap = 7 := by decide

/-- R184: `SYS.RD 0` returns 2, `SYS.RD 2` returns 1, `SYS.RD 1` returns 9. -/
theorem test_sysRd : said (exec (.sysRd 0#8) broken) = ok 2 ∧ said (exec (.sysRd 2#8) broken) = ok 1 ∧
    said (exec (.sysRd 1#8) broken) = ok 9 ∧ said (exec (.sysRd 22#8) broken) = some ⟨.refused, 0#64⟩ := by
  decide

/-- R93. -/
theorem test_ftClr : (after (exec .ftClr xyz)).ft = [] ∧ (after (exec .ftClr xyz)).tst = .none ∧
    (after (exec .ftClr xyz)).cvalid = false := by decide

/-- R91: from `[('a',1),('b',1)]`, `FT.CNT 'a'` gives `[('a',2),('b',1)]` and 0. -/
theorem test_ftCnt :
    (after (exec (.ftCnt 0x61#21) { ab with ft := [⟨0x61#21, 1#32⟩, ⟨0x62#21, 1#32⟩] })).ft =
      [⟨0x61#21, 2#32⟩, ⟨0x62#21, 1#32⟩] ∧
    said (exec (.ftCnt 0x61#21) { ab with ft := [⟨0x61#21, 1#32⟩, ⟨0x62#21, 1#32⟩] }) = ok 0 := by decide

/-- R91: a count at 2^32 - 1 does not wrap. -/
theorem test_ftCnt_full :
    said (exec (.ftCnt 0x61#21) { ab with ft := [⟨0x61#21, 0xFFFFFFFF#32⟩] }) = failed .capacityExceeded := by
  decide

/-- R92: a second `FT.PUT` appends after the first; a zero frequency is refused. -/
theorem test_ftPut :
    (after (exec (.ftPut 0x62#21 3#32) { State.reset with ft := [⟨0x61#21, 2#32⟩] })).ft = ab.ft ∧
    said (exec (.ftPut 0x62#21 0#32) ab) = failed .illegalCommand := by decide

/-- R94. -/
theorem test_ftSym : said (exec (.ftSym 1#32) ab) = ok 0x62 ∧
    said (exec (.ftSym 2#32) ab) = failed .illegalCommand := by decide

/-- R95. -/
theorem test_ftFrq : said (exec (.ftFrq 1#32) ab) = ok 3 ∧
    said (exec (.ftFrq 2#32) ab) = failed .illegalCommand := by decide

/-- R101. -/
theorem test_bsClr : (after (exec (.bsClr .bs0) xyz)).bs0 = [] ∧ (after (exec (.bsClr .bs0) xyz)).cur0 = 0 ∧
    (after (exec (.bsClr .bs0) xyz)).bs1 = [true, false] := by decide

/-- R102: from the empty BS0, `BS.APP 0, 1` leaves bytes `[0x80]` and answers 1. -/
theorem test_bsApp : (after (exec (.bsApp .bs0 1#32) ab)).bytes .bs0 = [0x80#8] ∧
    said (exec (.bsApp .bs0 1#32) ab) = ok 1 := by decide

/-- R102: an operand of 2 is InvalidBit at LEN. -/
theorem test_bsApp_invalid : said (exec (.bsApp .bs0 2#32) abNine) = failed .invalidBit ∧
    (after (exec (.bsApp .bs0 2#32) abNine)).fpos = 9#32 := by decide

/-- R103: `[1,0]` extended by `[1,1,1]` is `[1,0,1,1,1]`, bytes `[0xB8]`, answer 5. -/
theorem test_bsExt :
    (after (exec (.bsExt .bs0 .bs1) { ab with bs0 := [true, false], bs1 := [true, true, true] })).bytes .bs0 =
      [0xB8#8] ∧
    said (exec (.bsExt .bs0 .bs1) { ab with bs0 := [true, false], bs1 := [true, true, true] }) = ok 5 := by
  decide

/-- R103: the bits before the one that does not fit stay. -/
theorem test_bsExt_full : (after (exec (.bsExt .bs0 .bs1) xyz)).bs0 = [false, true, false, true, true, true] ∧
    said (exec (.bsExt .bs0 .bs1) xyz) = failed .capacityExceeded := by decide

/-- R104: bytes `69 80`, LEN 9: bits 1 and 8 are 1; bit 9 is out of range with FPOS 9. -/
theorem test_bsGet : said (exec (.bsGet .bs0 1#32) abNine) = ok 1 ∧
    said (exec (.bsGet .bs0 8#32) abNine) = ok 1 ∧ after (exec (.bsGet .bs0 9#32) abNine) =
      { broken with out := [⟨.fault .indexOutOfRange, 0#64⟩] } := by decide

/-- R105. -/
theorem test_bsTob : (after (exec (.bsTob .bs0) abNine)).buf = [0x69#8, 0x80#8] ∧
    said (exec (.bsTob .bs0) abNine) = ok 9 := by decide

/-- R107: `BUF = [0xFF]`, `BS.FRB 0, 3` gives `[1,1,1]`, bytes `[0xE0]`; `[0x69]` does not hold 9 bits. -/
theorem test_bsFrb : (after (exec (.bsFrb .bs0 3#32) { ab with buf := [0xFF#8] })).bytes .bs0 = [0xE0#8] ∧
    said (exec (.bsFrb .bs0 3#32) { ab with buf := [0xFF#8] }) = ok 3 ∧
    said (exec (.bsFrb .bs0 9#32) { ab with buf := [0x69#8] }) = failed .corruptStream := by decide

/-- R108. -/
theorem test_bsFrba : (after (exec (.bsFrba .bs1) { ab with buf := [0x69#8, 0x80#8] })).bs1 =
      nine ++ [false, false, false, false, false, false, false] ∧
    said (exec (.bsFrba .bs1) { ab with buf := [0x69#8, 0x80#8] }) = ok 16 := by decide

/-- R109: `[1,0]` and `[1,0,0]` differ; a slot equals itself. -/
theorem test_bsEq :
    said (exec (.bsEq .bs0 .bs1) { ab with bs0 := [true, false], bs1 := [true, false, false] }) = ok 0 ∧
    said (exec (.bsEq .bs0 .bs0) abNine) = ok 1 := by decide

/-- R110: the hash is HASHFN of the bits, whatever HASHFN is. -/
theorem test_bsHash : said (exec (.bsHash .bs0) abNine) = some ⟨.ok, Config.hashFn nine⟩ := rfl

/-- R111. -/
theorem test_bsRwd : (after (exec (.bsRwd .bs0) xyz)).cur0 = 0 ∧
    (after (exec (.bsRwd .bs0) xyz)).cur1 = 2 := by decide

/-- R112: `[1,0]` from 0 gives 0x100000001; at the end 0, and the cursor stays. -/
theorem test_bsNxt : said (exec (.bsNxt .bs1) { xyz with cur1 := 0 }) = ok 0x100000001 ∧
    (after (exec (.bsNxt .bs1) { xyz with cur1 := 0 })).cur1 = 1 ∧
    said (exec (.bsNxt .bs1) xyz) = ok 0 ∧ (after (exec (.bsNxt .bs1) xyz)).cur1 = 2 := by decide

/-- R175. -/
theorem test_bufClr : (after (exec .bufClr xyz)).buf = [] := by decide

/-- R176. -/
theorem test_bufPush : (after (exec (.bufPush 0x69#8) ab)).buf = [0x69#8] ∧
    said (exec (.bufPush 0x69#8) ab) = ok 1 := by decide

/-- R177: after the CZ.WR of R163, `BUF.LD 20` is 0x69. -/
theorem test_bufLd : said (exec (.bufLd 20#32) { ab with buf := abFile }) = ok 0x69 ∧
    said (exec (.bufLd 22#32) { ab with buf := abFile }) = failed .illegalCommand := by decide

/-- R178: `BUF.ST 0x0A, 19` makes `bit_length` 10. -/
theorem test_bufSt : memRead (after (exec (.bufSt 0x0A#8 19#32) { ab with buf := abFile })).buf 16 4 = 10 := by
  decide

/-- R179: `BUF.TRN 21` removes the byte 0x80; `v = BUFLEN` is legal. -/
theorem test_bufTrn : (after (exec (.bufTrn 21#32) { ab with buf := abFile })).buf ++ [0x80#8] = abFile ∧
    said (exec (.bufTrn 22#32) { ab with buf := abFile }) = ok 0 ∧
    said (exec (.bufTrn 23#32) { ab with buf := abFile }) = failed .illegalCommand := by decide

/-- R180. -/
theorem test_txtClr : (after (exec .txtClr xyz)).txt = [] := by decide

/-- R181: U+20AC is one character. -/
theorem test_txtPush : (after (exec (.txtPush 0x20AC#21) ab)).txt = [0x20AC#21] ∧
    said (exec (.txtPush 0x20AC#21) ab) = ok 1 := by decide

/-- R182. -/
theorem test_txtLd : said (exec (.txtLd 1#32) { ab with txt := abbab }) = ok 0x62 ∧
    said (exec (.txtLd 5#32) { ab with txt := abbab }) = failed .illegalCommand := by decide

/-- R122. -/
theorem test_htIni : (after (exec .htIni ab)).nd = [.leaf 0x61#21 2, .leaf 0x62#21 3] ∧
    (after (exec .htIni ab)).pq = [⟨2, 0, 0⟩, ⟨3, 1, 1⟩] ∧ (after (exec .htIni ab)).nextSeq = 2 ∧
    (after (exec .htIni ab)).tst = .building ∧ said (exec .htIni ab) = ok 2 := by decide

/-- R133: the leaf x of frequency 2 comes before the merged tree of frequency 2. -/
theorem test_htMrg : (after (exec .htMrg xyzBuilding)).nd = xyz.nd ∧
    (after (exec .htMrg xyzBuilding)).root = 4 ∧ (after (exec .htMrg xyzBuilding)).walk = 4 ∧
    (after (exec .htMrg xyzBuilding)).pq = xyz.pq ∧ said (exec .htMrg xyzBuilding) = ok 1 := by decide

/-- R124. -/
theorem test_htBld : (after (exec .htBld ab)).nd = abTree.nd ∧ (after (exec .htBld ab)).root = 2 ∧
    said (exec .htBld ab) = ok 3 := by decide

/-- R133, first example: four equal counts. -/
theorem test_htBld_ties :
    (after (exec .htBld { State.reset with
      ft := [⟨0x61#21, 1#32⟩, ⟨0x62#21, 1#32⟩, ⟨0x63#21, 1#32⟩, ⟨0x64#21, 1#32⟩] })).nd.drop 4 =
      [.internal 2 0 1, .internal 2 2 3, .internal 4 4 5] := by decide

/-- R127: the codebook stays. -/
theorem test_htDis : (after (exec .htDis xyz)).nd = [] ∧ (after (exec .htDis xyz)).cvalid = true ∧
    said (exec (.decBit 0#32) { xyz.dropTree with out := [] }) = failed .illegalCommand := by decide

/-- R128. -/
theorem test_htNdk : said (exec (.htNdk 0#32) abTree) = ok 0x61 ∧
    said (exec (.htNdk 2#32) abTree) = ok 0x100000000 := by decide

/-- R129. -/
theorem test_htNdf : said (exec (.htNdf 2#32) abTree) = ok 5 := by decide

/-- R130: a leaf has no child. -/
theorem test_htNdl : said (exec (.htNdl 2#32) abTree) = ok 0 ∧
    said (exec (.htNdl 0#32) abTree) = failed .illegalCommand := by decide

/-- R131. -/
theorem test_htNdr : said (exec (.htNdr 2#32) abTree) = ok 1 ∧
    said (exec (.htNdr 3#32) abTree) = failed .illegalCommand := by decide

/-- R140, R133: codes x `0`, y `10`, z `11`. -/
theorem test_cbDrv : (after (exec .cbDrv { xyz with cb := [], cvalid := false })).cb =
      [[false], [true, false], [true, true]] ∧
    (after (exec .cbDrv abTree)).cb = [[false], [true]] ∧ said (exec .cbDrv abTree) = ok 2 := by decide

/-- R140: one entry has the code `[0]`. -/
theorem test_cbDrv_lone :
    (after (exec .cbDrv (after (exec .htBld { State.reset with ft := [⟨0x61#21, 5#32⟩] })))).cb =
      [[false]] := by decide

/-- R142: `ENC.SYM 0, 'b'` appends 1; 'c' is a CodebookMiss without a position. -/
theorem test_encSym :
    (after (exec (.encSym .bs0 0x62#21) { ab with cb := [[false], [true]], cvalid := true })).bs0 = [true] ∧
    said (exec (.encSym .bs0 0x63#21) { ab with cb := [[false], [true]], cvalid := true }) =
      failed .codebookMiss := by decide

/-- R143: "abbab" encodes to 01101 with the table `ab`, and the tree is discarded. -/
theorem test_encRun : (after (exec (.encRun .bs0) { State.reset with txt := abbab })).bs0 =
      [false, true, true, false, true] ∧
    (after (exec (.encRun .bs0) { State.reset with txt := abbab })).ft = ab.ft ∧
    (after (exec (.encRun .bs0) { State.reset with txt := abbab })).tst = .none ∧
    said (exec (.encRun .bs0) { State.reset with txt := abbab }) = ok 5 := by decide

/-- R143: "aaaaa" gives five equal bits. -/
theorem test_encRun_lone :
    (after (exec (.encRun .bs1) { State.reset with txt := List.replicate 5 0x61#21 })).bs1 =
      List.replicate 5 false := by decide

/-- R150. -/
theorem test_decRst : (after (exec .decRst xyz)).walk = 4 ∧ (after (exec .decRst xyz)).dpos = 0#32 := by
  decide

/-- R151: `DEC.BIT 1` from the root goes to node 3; `DEC.BIT 0` there emits y and returns to the root. -/
theorem test_decBit : said (exec (.decBit 1#32) { xyz with walk := 4, dpos := 0#32 }) = ok 0 ∧
    (after (exec (.decBit 1#32) { xyz with walk := 4, dpos := 0#32 })).walk = 3 ∧
    said (exec (.decBit 0#32) xyz) = ok 0x100000079 ∧ (after (exec (.decBit 0#32) xyz)).walk = 4 := by decide

/-- R152: after the single `DEC.BIT 1`, TrailingBits with FPOS 1. -/
theorem test_decEnd : said (exec .decEnd xyz) = failed .trailingBits ∧
    (after (exec .decEnd xyz)).fpos = 1#32 ∧ said (exec .decEnd { xyz with walk := 4 }) = ok 0 := by decide

/-- R153: 01101 with the table `ab` decodes to "abbab". -/
theorem test_decRun : (after (exec (.decRun .bs0) { ab with bs0 := [false, true, true, false, true] })).txt =
      abbab ∧
    said (exec (.decRun .bs0) { ab with bs0 := [false, true, true, false, true] }) = ok 5 := by decide

/-- R195: the stream 0 1 of the table x, y, z ends inside a code, at bit 2. -/
theorem test_decRun_trailing :
    said (exec (.decRun .bs1) { xyz with bs1 := [false, true] }) = failed .trailingBits ∧
    (after (exec (.decRun .bs1) { xyz with bs1 := [false, true] })).fpos = 2#32 := by decide

/-- R163: the 22 bytes. -/
theorem test_czWr : (after (exec (.czWr .bs0) abNine)).buf = abFile ∧ said (exec (.czWr .bs0) abNine) = ok 22 := by
  decide

/-- R164: the 22 bytes read back. -/
theorem test_czRd : (after (exec (.czRd .bs1) { State.reset with buf := abFile })).ft = ab.ft ∧
    (after (exec (.czRd .bs1) { State.reset with buf := abFile })).bs1 = nine ∧
    said (exec (.czRd .bs1) { State.reset with buf := abFile }) = ok 0x200000009 := by decide

/-- R166 b: one byte less is CorruptStream at the payload. -/
theorem test_czRd_truncated :
    said (exec (.czRd .bs1) { State.reset with buf := abFile.take 21 }) = failed .corruptStream ∧
    (after (exec (.czRd .bs1) { State.reset with buf := abFile.take 21 })).fpos = 20#32 := by decide

/-- R54, R55: the nine bits pack into `69 80`. -/
theorem test_pack : pack nine = [0x69#8, 0x80#8] ∧ unpack [0x69#8, 0xFF#8] 9 = nine := by decide

/-- R162: the four examples. -/
theorem test_utf8 : utf8 0x61#21 = [0x61#8] ∧ utf8 0xE9#21 = [0xC3#8, 0xA9#8] ∧
    utf8 0x20AC#21 = [0xE2#8, 0x82#8, 0xAC#8] ∧ utf8 0x1F600#21 = [0xF0#8, 0x9F#8, 0x98#8, 0x80#8] := by decide

/-- R162: an overlong form, a surrogate, a stray continuation, two characters: none decodes. -/
theorem test_utf8_refused : utf8Decode [0xC1#8, 0xA1#8] = none ∧ utf8Decode [0xED#8, 0xA0#8, 0x80#8] = none ∧
    utf8Decode [0x80#8] = none ∧ utf8Decode [0x61#8, 0x61#8] = none ∧ utf8Decode [] = none := by decide

/-- R200: in the fault state a command is refused and changes nothing. -/
theorem test_refused : after (exec (.bsClr .bs0) broken) = { broken with out := [⟨.refused, 0#64⟩] } := by decide

/-! ## Witnesses: the hypotheses of each statement can be met, clause by clause -/

theorem witness_EncodeDecodeEveryWord : decode 0x2180000000000001#64 = .ok (.bsApp .bs1 1#32) := rfl

theorem witness_WordSpellsCommandByMask :
    (0x52#8, Format.s) ∈ opcodeTable ∧ 0x5280000000000000#64 &&& Format.s.mask = (0x52#8).setWidth 64 <<< 56 ∧
    decode 0x5280000000000000#64 = .ok (.encRun .bs1) ∧ rowOf (.encRun .bs1) = (0x52#8, .s) := by decide

/-- Cases a, b, c (both ends of the surrogates, and above), d, e, f; and legal neighbours of c and d. -/
theorem witness_SpellsNothing :
    SpellsNothing 0x0000000000000000#64 ∧ SpellsNothing 0x0100000000000001#64 ∧
    SpellsNothing 0x1100D80000000000#64 ∧ SpellsNothing 0x3900DFFF00000000#64 ∧
    SpellsNothing 0x5111000000000000#64 ∧ SpellsNothing 0x0200000000000016#64 ∧
    SpellsNothing 0x2200000000000000#64 ∧ SpellsNothing 0x2280000000000001#64 ∧
    SpellsNothing 0x1200006100000000#64 ∧ ¬ SpellsNothing 0x1100D7FF00000000#64 ∧
    ¬ SpellsNothing 0x3900E00000000000#64 ∧ ¬ SpellsNothing 0x5110FFFF00000000#64 ∧
    ¬ SpellsNothing 0x0200000000000015#64 :=
  ⟨by decide, by decide, by decide, by decide, by decide, by decide, by decide, by decide, by decide,
    by decide, by decide, by decide, by decide⟩

theorem witness_IllegalWordsRaise : xyz.fault = none ∧ SpellsNothing 0x2200000000000000#64 :=
  ⟨rfl, by decide⟩

theorem witness_StepRunsDecodedCommand :
    { xyz with cmds := [0x4200000000000000#64, 0#64] }.cmds = 0x4200000000000000#64 :: [0#64] ∧
    decode 0x4200000000000000#64 = .ok .htBld ∧ decodeTableWord 64 0x4200000000000000 = some .htBld ∧
    decodeTableWord 8 0x42 = none ∧ xyz.cmds = [] := by decide

/-- The three answers of the fault state, at the last register number and the first number above it. -/
theorem witness_FaultStateRefuses :
    broken.fault = some .indexOutOfRange ∧ (statusRegisters broken)[21]? = some 4294967295 ∧
    (statusRegisters broken)[22]? = none ∧
    0x0200000000000015#64 &&& 0xFFFFFFFFFFFFFF00#64 = 0x0200000000000000#64 ∧
    0x0200000000000016#64 &&& 0xFFFFFFFFFFFFFF00#64 = 0x0200000000000000#64 ∧
    0x0200000000000100#64 &&& 0xFFFFFFFFFFFFFF00#64 ≠ 0x0200000000000000#64 := by decide

theorem witness_FaultStateIsFinal :
    broken.fault ≠ none ∧
    [0x0200000000000000#64, 0x4200000000000000#64].all (fun w => w != 0x0100000000000000#64) = true := by decide

theorem witness_ResetCommand :
    broken.fault ≠ none ∧ (0x0100000000000001#64).extractLsb' 56 8 = 0x01#8 ∧
    0x0100000000000001#64 ≠ 0x0100000000000000#64 := by decide

theorem witness_ResetValues : isNext (exec .sysRst xyz) = true := by decide

theorem witness_ReadStatusRegister : (statusRegisters xyz)[0]? = some 0 ∧ (statusRegisters xyz)[21]? = some 3 ∧
    (22#8).toNat > 21 ∧ xyz.fault = none ∧ broken.fault ≠ none := by decide

/-- A word that completes, one that faults, one that is refused. -/
theorem witness_EveryWordAnsweredOnce :
    isNext (step { xyz with cmds := [0x4200000000000000#64] }) = true ∧
    isNext (step { xyz with cmds := [0#64] }) = true ∧ isNext (step { broken with cmds := [0#64] }) = true := by
  decide

theorem witness_ParametersNeverChange : isNext (step { xyz with cmds := [0x0100000000000000#64] }) = true := by
  decide

theorem witness_StepKeepsInv :
    { xyz with cmds := [0x6380000000000000#64] }.Inv ∧
    isNext (step { xyz with cmds := [0x6380000000000000#64] }) = true :=
  ⟨⟨xyz_inv.caps, xyz_inv.table, xyz_inv.streams, xyz_inv.spaces, xyz_inv.faultRegs, xyz_inv.tree,
    xyz_inv.treeOfTable, xyz_inv.codebook⟩, by decide⟩

theorem witness_StepNeverStops : xyzBuilding.Inv ∧ xyzBuilding.cmds = [] := ⟨xyzBuilding_inv, rfl⟩

/-- Registers 0 and 21, the ends of the table. -/
theorem witness_RegistersWithinWidth : xyz.Inv ∧ (statusRegisters xyz)[0]? = some 0 ∧
    statusWidths[0]? = some 3 ∧ (statusRegisters xyz)[21]? = some 3 ∧ statusWidths[21]? = some 32 :=
  ⟨xyz_inv, by decide, by decide, by decide, by decide⟩

theorem witness_OnlyWritersWrite : isNext (exec (.bsNxt .bs0) xyz) = true ∧
    writesBuf (.bsNxt .bs0) = false ∧ writesTxt (.bsNxt .bs0) = false ∧ writesFt (.bsNxt .bs0) = false ∧
    writesBits (.bsNxt .bs0) .bs0 = false ∧ writesCur (.bsNxt .bs0) .bs1 = false ∧
    writesTree (.bsNxt .bs0) = false ∧ writesWalk (.bsNxt .bs0) = false ∧
    writesCodebook (.bsNxt .bs0) = false := by decide

/-- A surrogate; an unseen symbol in a full table and in one with room; a symbol whose first entry is at
index 1, below and at the greatest count. -/
theorem witness_CountSymbolEffect : xyz.fault = none ∧ isScalar 0xD800#21 = false ∧
    isScalar 0x61#21 = true ∧ (∀ e ∈ xyz.ft, e.sym ≠ 0x61#21) ∧ xyz.ft.length = xyz.ftCap ∧
    ab.ft.length ≠ ab.ftCap ∧ (∀ e ∈ ab.ft, e.sym ≠ 0x63#21) ∧ xyz.ft[1]? = some ⟨0x79#21, 1#32⟩ ∧
    (∀ j < 1, ∀ x, xyz.ft[j]? = some x → x.sym ≠ 0x79#21) ∧
    (0xFFFFFFFF#32).toNat = 2 ^ 32 - 1 := by
  refine ⟨rfl, by decide, by decide, by decide, by decide, by decide, by decide, by decide, ?_, by decide⟩
  intro j hj x hx
  obtain rfl : j = 0 := by omega
  obtain rfl : ⟨0x78#21, 2#32⟩ = x := by simpa [xyz, xyzBuilding] using hx
  decide

theorem witness_PutAndClearTable : xyz.fault = none ∧ xyz.ft.length = xyz.ftCap ∧ ab.fault = none ∧
    ab.ft.length ≠ ab.ftCap ∧ isScalar 0x61#21 = true ∧ isScalar 0xDFFF#21 = false := by decide

/-- The last entry and the first index beyond it. -/
theorem witness_ReadTableEntry : ab.fault = none ∧ ab.ft[(1#32).toNat]? = some ⟨0x62#21, 3#32⟩ ∧
    ab.ft.length ≤ (2#32).toNat := by decide

/-- A text that fills the table exactly. -/
theorem witness_CountedTableOfText : { xyz with ftCap := 2 }.fault = none ∧ abbab.all isScalar = true ∧
    (distinct abbab).length ≤ { xyz with ftCap := 2 }.ftCap ∧ abbab.length ≤ Config.lenCapMax ∧
    countedTable abbab = ab.ft := by decide

theorem witness_AppendBitEffect : xyz.fault = none ∧ (2#32).toNat > 1 ∧ ¬ (1#32).toNat > 1 ∧
    (xyz.bits .bs0).length ≠ xyz.bsCap ∧ { xyz with bsCap := 5 }.len .bs0 = 5 := by decide

/-- It fits exactly; it is one bit too long. -/
theorem witness_ExtendEffect : xyz.fault = none ∧ Slot.bs0 ≠ .bs1 ∧
    (xyz.bits .bs0).length + (xyz.bits .bs1).length ≤ { xyz with bsCap := 7 }.bsCap ∧
    (xyz.bits .bs0).length ≤ xyz.bsCap ∧
    xyz.bsCap < (xyz.bits .bs0).length + (xyz.bits .bs1).length := by decide

theorem witness_GetBitEffect : abNine.fault = none ∧ (8#32).toNat < (abNine.bits .bs0).length ∧
    (abNine.bits .bs0).length ≤ (9#32).toNat := by decide

/-- BS.TOB over and within BUF; BS.FRB of a wrong, a too great and a right length; BS.FRBA too long or not. -/
theorem witness_StreamBytesEffect : xyz.fault = none ∧
    ((abNine.bits .bs0).length + 7) / 8 > { abNine with bufCap := 1 }.bufCap ∧
    ¬ ((abNine.bits .bs0).length + 7) / 8 > { abNine with bufCap := 2 }.bufCap ∧
    xyz.buf.length ≠ ((17#32).toNat + 7) / 8 ∧ xyz.buf.length = ((16#32).toNat + 7) / 8 ∧
    (16#32).toNat > xyz.bsCap ∧ ¬ (16#32).toNat > { xyz with bsCap := 16 }.bsCap ∧
    8 * xyz.buf.length > xyz.bsCap := by decide

theorem witness_PackUnpackInverse : 1 < (nine.length + 7) / 8 ∧ [0x69#8, 0x80#8].length = (9 + 7) / 8 ∧
    [0x69#8, 0x80#8][8 / 8]? = some 0x80#8 := by decide

theorem witness_EqualityAndHash :
    { ab with bs0 := nine, bs1 := nine }.fault = none ∧
    { ab with bs0 := nine, bs1 := nine }.bits .bs0 = { ab with bs0 := nine, bs1 := nine }.bits .bs1 ∧
    (xyz.bits .bs0).length ≠ (xyz.bits .bs1).length ∧
    exec (.bsEq .bs0 .bs1) { ab with bs0 := nine, bs1 := nine } =
      answered { ab with bs0 := nine, bs1 := nine } 1#64 := ⟨rfl, rfl, by decide, rfl⟩

/-- A cursor at the last bit, and one at the end. -/
theorem witness_ClearRewindNext : xyz.fault = none ∧
    ({ xyz with cur0 := 4 }.bits .bs0)[{ xyz with cur0 := 4 }.cur .bs0]? = some true ∧
    (xyz.bits .bs1).length ≤ xyz.cur .bs1 := by decide

theorem witness_IterationYieldsStream : xyz.fault = none ∧ (xyz.bits .bs0).length = 5 := by decide

theorem witness_SerializationRoundTrip : xyz.fault = none ∧ xyz.Inv ∧
    ((xyz.bits .bs0).length + 7) / 8 ≤ xyz.bufCap := ⟨rfl, xyz_inv, by decide⟩

theorem witness_InitTreeEffect : xyz.fault = none ∧ xyz.ft.length ≥ 2 := by decide

/-- A queue whose two elements tie; and one of three, whose least two are its last. -/
theorem witness_MergeStepEffect : xyz.tst ≠ .building ∧ xyzBuilding.fault = none ∧
    xyzBuilding.tst = .building ∧ (xyzBuilding.pq.map QElem.seq).Nodup ∧ ⟨2, 0, 0⟩ ∈ xyzBuilding.pq ∧
    ⟨2, 3, 3⟩ ∈ xyzBuilding.pq ∧ (⟨2, 0, 0⟩ : QElem) ≠ ⟨2, 3, 3⟩ ∧
    (∀ x ∈ xyzBuilding.pq, x ≠ ⟨2, 0, 0⟩ → 2 < x.freq ∨ (2 = x.freq ∧ 0 < x.seq)) ∧
    (∀ x ∈ xyzBuilding.pq, x ≠ ⟨2, 0, 0⟩ → x ≠ ⟨2, 3, 3⟩ → 2 < x.freq ∨ (2 = x.freq ∧ 3 < x.seq)) := by
  decide

theorem witness_MergeStepEffect_three : ((after (exec .htIni xyz)).pq.map QElem.seq).Nodup ∧
    (after (exec .htIni xyz)).tst = .building ∧
    (∀ x ∈ (after (exec .htIni xyz)).pq, x ≠ ⟨1, 1, 1⟩ → 1 < x.freq ∨ (1 = x.freq ∧ 1 < x.seq)) ∧
    (∀ x ∈ (after (exec .htIni xyz)).pq, x ≠ ⟨1, 1, 1⟩ → x ≠ ⟨1, 2, 2⟩ →
      1 < x.freq ∨ (1 = x.freq ∧ 2 < x.seq)) := by decide

theorem witness_BuildTreeEffect : xyzBuilding.fault = none ∧ xyzBuilding.ft.length = 3 := by decide

theorem witness_BuildDependsOnTableOnly : xyz.fault = none ∧ { State.reset with ft := xyz.ft }.fault = none ∧
    xyz.ft = { State.reset with ft := xyz.ft }.ft := ⟨rfl, rfl, rfl⟩

/-- A leaf, the last node, and the first index beyond it. -/
theorem witness_DiscardAndReadNodes : xyz.fault = none ∧
    xyz.nd[(0#32).toNat]? = some (.leaf 0x78#21 2) ∧ xyz.nd[(4#32).toNat]? = some (.internal 4 0 3) ∧
    xyz.nd.length ≤ (5#32).toNat := by decide

theorem witness_BuildGivesHuffmanTree : xyz.fault = none ∧ xyz.ft ≠ [] := by decide

/-- A tree of five nodes, of one, of none; and no valid tree. -/
theorem witness_DeriveCodebookEffect : xyz.fault = none ∧ xyz.Inv ∧ xyz.tst = .valid ∧ 2 ≤ xyz.nd.length ∧
    2 < xyz.ft.length ∧ xyzBuilding.tst ≠ .valid := ⟨rfl, xyz_inv, rfl, by decide, by decide, by decide⟩

theorem witness_DeriveCodebookEffect_one : ∃ s : State, s.Inv ∧ s.fault = none ∧ s.tst = .valid ∧
    s.nd.length = 1 ∧ s.ft.length = 1 ∧ s.cvalid = true :=
  ⟨{ State.reset with
      ft := [⟨0x61#21, 5#32⟩], nd := [.leaf 0x61#21 5], pq := [⟨5, 0, 0⟩], nextSeq := 1, tst := .valid,
      cb := [[false]], cvalid := true },
    { caps := by decide, table := by decide, streams := by decide, spaces := by decide,
      faultRegs := by decide, tree := ⟨by decide, by decide, by decide⟩, treeOfTable := by decide,
      codebook := by decide }, rfl, rfl, rfl, rfl, rfl⟩

theorem witness_DeriveCodebookEffect_none : ∃ s : State, s.Inv ∧ s.fault = none ∧ s.tst = .valid ∧
    s.nd.length = 0 :=
  ⟨{ State.reset with tst := .valid },
    { caps := by decide, table := by decide, streams := by decide, spaces := by decide,
      faultRegs := by decide, tree := ⟨by decide, by decide, by decide⟩, treeOfTable := by decide,
      codebook := by decide }, rfl, rfl, rfl⟩

theorem witness_CodebookPrefixFree : xyz.Inv ∧ xyz.cvalid = true ∧ 2 ≤ xyz.ft.length ∧
    xyz.cb[1]? = some [true, false] ∧ xyz.cb[2]? = some [true, true] :=
  ⟨xyz_inv, rfl, by decide, rfl, rfl⟩

/-- A codebook that is not valid; a miss; a code of two bits that fits exactly, and with one bit of room. -/
theorem witness_EncodeSymbolEffect : xyz.fault = none ∧ xyzBuilding.cvalid = false ∧ xyz.cvalid = true ∧
    (∀ e ∈ xyz.ft, e.sym ≠ 0x61#21) ∧ xyz.ft[0]? = some ⟨0x78#21, 2#32⟩ ∧ xyz.cb[0]? = some [false] ∧
    xyz.ft[2]? = some ⟨0x7A#21, 1#32⟩ ∧ xyz.cb[2]? = some [true, true] ∧
    (xyz.bits .bs0).length + [false].length ≤ xyz.bsCap ∧ (xyz.bits .bs0).length ≤ xyz.bsCap ∧
    xyz.bsCap < (xyz.bits .bs0).length + [true, true].length := by decide

/-- A text whose table and whose codes fill both capacities exactly. -/
theorem witness_EncodeRunEffect : ∃ s : State, s.fault = none ∧ s.txt = abbab ∧
    (distinct s.txt).length ≤ s.ftCap ∧ s.txt.length ≤ Config.lenCapMax ∧
    tableCodes (countedTable s.txt) = some [[false], [true]] ∧
    (s.txt.flatMap (codeOf (countedTable s.txt) [[false], [true]])).length ≤ s.bsCap :=
  ⟨{ xyz with txt := abbab, ftCap := 2, bsCap := 5 }, by decide⟩

/-- The third character is the first of a second symbol, in a table of one entry. -/
theorem witness_EncodeRunFaults_table : ∃ s : State, s.fault = none ∧ s.txt.length ≤ Config.lenCapMax ∧
    s.txt = [0x61#21] ++ 0x62#21 :: [0x62#21] ∧ (distinct [0x61#21]).length = s.ftCap ∧
    0x62#21 ∉ [0x61#21] :=
  ⟨{ xyz with txt := [0x61#21, 0x62#21, 0x62#21], ftCap := 1 }, by decide⟩

theorem witness_EncodeRunFaults_bits : ∃ s t : State, s.fault = none ∧ (distinct s.txt).length ≤ s.ftCap ∧
    tableCodes (countedTable s.txt) = some [[false], [true]] ∧
    s.bsCap < (s.txt.flatMap (codeOf (countedTable s.txt) [[false], [true]])).length ∧
    exec .htBld (s.newTable (countedTable s.txt)) = .next t :=
  ⟨{ xyz with txt := abbab, bsCap := 4 }, after (exec .htBld (({ xyz with txt := abbab, bsCap := 4 } :
      State).newTable (countedTable abbab))), rfl, by decide, by decide, by decide, next_after (by decide)⟩

theorem witness_EncodedLengthIsWeightedSum : ∃ t : State,
    exec (.encRun .bs1) { xyz with txt := abbab } = .next t ∧ xyz.fault = none ∧ t.fault = none :=
  ⟨after (exec (.encRun .bs1) { xyz with txt := abbab }), next_after (by decide), rfl, by decide⟩

/-- The walk away from the root, at the root, and no valid tree. -/
theorem witness_DecodeWalkControl : xyz.fault = none ∧ xyz.tst = .valid ∧ xyz.nd.length ≥ 2 ∧
    xyz.walk ≠ xyz.root ∧ abTree.walk = abTree.root ∧ abTree.tst = .valid ∧ xyzBuilding.tst ≠ .valid := by
  decide

/-- Each clause: no tree, an operand of 2, empty, one node, on a leaf, to a leaf, to an internal node. -/
theorem witness_DecodeBitEffect : xyzBuilding.tst ≠ .valid ∧ xyz.tst = .valid ∧ (2#32).toNat > 1 ∧
    (1#32).toNat ≤ 1 ∧ { State.reset with tst := .valid }.nd = [] ∧
    { State.reset with tst := .valid, nd := [.leaf 0x61#21 5] }.nd = [.leaf 0x61#21 5] ∧
    { xyz with walk := 0 }.nd[{ xyz with walk := 0 }.walk]? = some (.leaf 0x78#21 2) ∧
    xyz.nd[xyz.walk]? = some (.internal 2 1 2) ∧
    xyz.nd[if (1#32 : Word32) = 0#32 then 1 else 2]? = some (.leaf 0x7A#21 1) ∧
    { xyz with walk := 4 }.nd[{ xyz with walk := 4 }.walk]? = some (.internal 4 0 3) ∧
    xyz.nd[if (1#32 : Word32) = 0#32 then 0 else 3]? = some (.internal 2 1 2) := by decide

/-- An empty table; one entry, with as many bits as TXT holds; the codes x, y, z in TXT's three places. -/
theorem witness_DecodeRunEffect : State.reset.ft = [] ∧ xyz.fault = none ∧
    { ab with ft := [⟨0x61#21, 5#32⟩], bs0 := nine, txtCap := 9 }.ft = [⟨0x61#21, 5#32⟩] ∧
    ({ ab with bs0 := nine, txtCap := 9 }.bits .bs0).length ≤ 9 ∧ 2 ≤ xyz.ft.length ∧
    tableCodes xyz.ft = some xyz.cb ∧ (∀ p ∈ xyz.ft.zip xyz.cb, p ∈ xyz.ft.zip xyz.cb) ∧
    xyz.bits .bs0 = (xyz.ft.zip xyz.cb).flatMap Prod.snd ∧ (xyz.ft.zip xyz.cb).length ≤ xyz.txtCap := by
  decide

/-- One bit more than TXT holds, of one entry; a stream that ends after one bit of the code of z; and the
code of z when TXT is full. -/
theorem witness_DecodeRunFaults :
    { ab with ft := [⟨0x61#21, 5#32⟩], bs0 := nine, txtCap := 8 }.txtCap < nine.length ∧
    2 ≤ xyz.ft.length ∧ tableCodes xyz.ft = some xyz.cb ∧
    (⟨0x7A#21, 1#32⟩, [true, true]) ∈ xyz.ft.zip xyz.cb ∧
    { xyz with bs1 := [false, true] }.bits .bs1 =
      [((⟨0x78#21, 2#32⟩ : Entry), [false])].flatMap Prod.snd ++ [true] ∧
    [true] ≠ [] ∧ [true] <+: [true, true] ∧ [true] ≠ [true, true] ∧
    { xyz with bs1 := [false, true, true, false] }.bits .bs1 =
      [((⟨0x78#21, 2#32⟩ : Entry), [false])].flatMap Prod.snd ++ [true, true] ++ [false] ∧
    [((⟨0x78#21, 2#32⟩ : Entry), [false])].length = { xyz with txtCap := 1 }.txtCap := by decide

theorem witness_StepwiseAgreesWithRun : ∃ t : State, xyz.fault = none ∧ exec (.decRun .bs0) xyz = .next t ∧
    t.fault = none := ⟨after (exec (.decRun .bs0) xyz), rfl, next_after (by decide), by decide⟩

theorem witness_EncodeDecodeRoundTrip : ∃ t : State, xyz.fault = none ∧ exec (.encRun .bs0) xyz = .next t ∧
    t.fault = none ∧ xyz.txt.length ≤ xyz.txtCap :=
  ⟨after (exec (.encRun .bs0) xyz), rfl, next_after (by decide), by decide, by decide⟩

/-- An image of 22 bytes in a buffer of 21 and of 22. -/
theorem witness_WriteFileEffect : abNine.fault = none ∧
    22 = 6 + 6 * abNine.ft.length + (abNine.ft.map fun e => (utf8 e.sym).length).sum +
      ((abNine.bits .bs0).length + 7) / 8 ∧
    22 > { abNine with bufCap := 21 }.bufCap ∧ 22 ≤ { abNine with bufCap := 22 }.bufCap := by decide

/-- The ends of the four ranges. -/
theorem witness_Utf8Definition : (0x7F#21).toNat = 0x7F ∧ (0x80#21).toNat = 0x80 ∧ (0x7FF#21).toNat = 0x7FF ∧
    (0x800#21).toNat = 0x800 ∧ (0xFFFF#21).toNat = 0xFFFF ∧ (0x10000#21).toNat = 0x10000 ∧
    (0x10FFFF#21).toNat = 0x10FFFF ∧ isScalar 0x10FFFF#21 = true := by decide

/-- Nine bits with non-zero padding in a block that just holds them. -/
theorem witness_ReadFileEffect : ∃ s : State, s.fault = none ∧
    s.buf = be16 ab.ft.length ++ zzEntries ab.ft ++ be32 9 ++ [0x69#8, 0xFF#8] ∧
    (∀ e ∈ ab.ft, isScalar e.sym = true ∧ e.cnt ≠ 0#32) ∧ ab.ft.length ≤ 65535 ∧ ab.ft.length ≤ s.ftCap ∧
    9 < 2 ^ 32 ∧ 9 ≤ s.bsCap ∧ [0x69#8, 0xFF#8].length = (9 + 7) / 8 :=
  ⟨{ xyz with buf := abFile.take 20 ++ [0x69#8, 0xFF#8], ftCap := 2, bsCap := 9 }, by decide⟩

/-- An image that promises three entries and has two: what its tail can be. -/
theorem witness_ReadFileFaults_entry : ∃ s : State, s.fault = none ∧
    s.buf = be16 3 ++ zzEntries ab.ft ++ (be16 2 ++ [0xC3#8, 0xA9#8, 0x00#8, 0x00#8, 0x00#8, 0x01#8]) ∧
    (∀ e ∈ ab.ft, isScalar e.sym = true ∧ e.cnt ≠ 0#32) ∧ ab.ft.length ≤ s.ftCap ∧ ab.ft.length < 3 ∧
    16 = 2 + (zzEntries ab.ft).length ∧
    utf8Decode ([0xC3#8, 0xA9#8, 0x00#8, 0x00#8, 0x00#8, 0x01#8].take 2) = some 0xE9#21 ∧
    ([0xC3#8, 0xA9#8, 0x00#8, 0x00#8, 0x00#8, 0x01#8].drop 2).take 4 ≠ be32 0 ∧
    ab.ft.length = s.ftCap :=
  ⟨{ xyz with
      buf := be16 3 ++ zzEntries ab.ft ++ (be16 2 ++ [0xC3#8, 0xA9#8, 0x00#8, 0x00#8, 0x00#8, 0x01#8])
      ftCap := 2 }, by decide⟩

/-- The defects of an entry: short length, lengths 0 and 5, short and malformed symbol, short and zero
frequency; each tail has its form. -/
theorem witness_ReadFileFaults_tails : [0x00#8].length < 2 ∧ be16 0 ++ [] = [0x00#8, 0x00#8] ∧ 0 < 1 ∧
    be16 5 ++ [] = [0x00#8, 0x05#8] ∧ 5 > 4 ∧ [0xC3#8].length < 2 ∧
    utf8Decode ([0xC3#8, 0x28#8].take 2) = none ∧ [0xC3#8, 0xA9#8, 0x00#8].length < 2 + 4 ∧
    ([0xC3#8, 0xA9#8, 0x00#8, 0x00#8, 0x00#8, 0x00#8].drop 2).take 4 = be32 0 ∧
    ([] : Memory).length < 2 := by decide

/-- After the last entry: a short bit length; a payload one byte short; one bit too many; all well. -/
theorem witness_ReadFileFaults_end : ∃ s : State, s.fault = none ∧
    s.buf = be16 2 ++ zzEntries ab.ft ++ (be32 9 ++ [0x69#8, 0x80#8]) ∧ ab.ft.length = 2 ∧
    ab.ft.length ≤ s.ftCap ∧ [0x69#8, 0x80#8].length = (9 + 7) / 8 ∧ 9 > s.bsCap ∧
    [0x69#8].length ≠ (9 + 7) / 8 ∧ [0x00#8, 0x00#8, 0x00#8].length < 4 ∧ ¬ 6 > s.bsCap :=
  ⟨{ xyz with buf := abFile }, by decide⟩

theorem witness_FileRoundTrip : ∃ t v : State, xyz.Inv ∧ exec (.czWr .bs0) xyz = .next t ∧ t.fault = none ∧
    v.fault = none ∧ v.buf = t.buf ∧ xyz.ft.length ≤ v.ftCap ∧ (xyz.bits .bs0).length ≤ v.bsCap :=
  ⟨after (exec (.czWr .bs0) xyz), { State.reset with buf := (after (exec (.czWr .bs0) xyz)).buf }, xyz_inv,
    next_after (by decide), by decide, rfl, rfl, by decide, by decide⟩

/-- Cut to nothing, and by one byte. -/
theorem witness_TruncationRaisesCorruptStream : xyz.Inv ∧ isNext (exec (.czWr .bs0) xyz) = true ∧
    (after (exec (.czWr .bs0) xyz)).fault = none ∧ 0 < (after (exec (.czWr .bs0) xyz)).buf.length ∧
    (after (exec (.czWr .bs0) xyz)).buf.length - 1 < (after (exec (.czWr .bs0) xyz)).buf.length ∧
    xyz.ft.length ≤ State.reset.ftCap :=
  ⟨xyz_inv, by decide, by decide, by decide, by decide, by decide⟩

theorem witness_CompressDecompress : ∃ t v : State, xyz.Inv ∧ xyz.fault = none ∧
    execSeq [.encRun .bs0, .czWr .bs0] xyz = .next t ∧ t.fault = none ∧ v.fault = none ∧ v.buf = t.buf ∧
    t.ft.length ≤ v.ftCap ∧ t.bs0.length ≤ v.bsCap ∧ xyz.txt.length ≤ v.txtCap :=
  ⟨after (execSeq [.encRun .bs0, .czWr .bs0] xyz),
    { abTree with buf := (after (execSeq [.encRun .bs0, .czWr .bs0] xyz)).buf }, xyz_inv, rfl,
    next_after (by decide), by decide, rfl, rfl, by decide, by decide, by decide⟩

/-- Full and not; the last byte and the first index beyond it; `v = BUFLEN` and one more. -/
theorem witness_BufferEffect : xyz.fault = none ∧ { xyz with bufCap := 2 }.buf.length = 2 ∧
    xyz.buf.length ≠ xyz.bufCap ∧ xyz.buf[(1#32).toNat]? = some 0x80#8 ∧ (1#32).toNat < xyz.buf.length ∧
    xyz.buf.length ≤ (2#32).toNat ∧ (2#32).toNat ≤ xyz.buf.length ∧ ¬ (3#32).toNat ≤ xyz.buf.length := by decide

theorem witness_TextEffect : xyz.fault = none ∧ isScalar 0xD800#21 = false ∧
    { xyz with txtCap := 2 }.txt.length = 2 ∧ xyz.txt.length ≠ xyz.txtCap ∧
    xyz.txt[(1#32).toNat]? = some 0x20AC#21 ∧ xyz.txt[(2#32).toNat]? = none := by decide

end Sys2Proof.Tests
end

/-! ## The tree builder keeps its forest (10_state.md R33, R40, R41)

The registers of the tree are an invariant of their own, `State.TreeInv`: HT.INI establishes it on every
table, a merge keeps it, and HT.BLD therefore ends with a complete tree on every table. -/

namespace Sys2Proof.Machine

/-! ### Reading a node store that grows -/

theorem freqAt_append {nd : List Node} {k : Nat} (more : List Node) (h : k < nd.length) :
    freqAt (nd ++ more) k = freqAt nd k := by
  simp [freqAt, List.getElem?_append_left h]

/-- What `internalOk` says of a node (R40). -/
theorem internalOk_iff {nd : List Node} {k : Nat} :
    internalOk nd k = true ↔ ∃ f l r, nd[k]? = some (.internal f l r) ∧ l < k ∧ r < k ∧
      f = freqAt nd l + freqAt nd r := by
  unfold internalOk
  split
  next f l r h => simp [h, and_assoc]; tauto
  next h =>
    refine iff_of_false (by simp) ?_
    rintro ⟨f, l, r, hk, -⟩
    exact h f l r hk

theorem isInternal_iff {nd : List Node} {k : Nat} :
    isInternal nd k = true ↔ ∃ f l r, nd[k]? = some (.internal f l r) := by
  unfold isInternal
  split
  next f l r h => simp [h]
  next h => simpa using h

theorem isInternal_of_internalOk {nd : List Node} {k : Nat} (h : internalOk nd k = true) :
    isInternal nd k = true := by
  obtain ⟨f, l, r, hk, -⟩ := internalOk_iff.mp h
  exact isInternal_iff.mpr ⟨f, l, r, hk⟩

theorem lt_length_of_isInternal {nd : List Node} {k : Nat} (h : isInternal nd k = true) :
    k < nd.length := by
  obtain ⟨f, l, r, hk⟩ := isInternal_iff.mp h
  exact (List.getElem?_eq_some_iff.mp hk).1

/-- An internal node stays well formed when nodes are appended: its children lie below it. -/
theorem internalOk_append {nd : List Node} {k : Nat} (more : List Node) (hlt : k < nd.length)
    (h : internalOk nd k = true) : internalOk (nd ++ more) k = true := by
  obtain ⟨f, l, r, hk, hl, hr, hf⟩ := internalOk_iff.mp h
  refine internalOk_iff.mpr ⟨f, l, r, ?_, hl, hr, ?_⟩
  · rw [List.getElem?_append_left hlt, hk]
  · rw [freqAt_append more (hl.trans hlt), freqAt_append more (hr.trans hlt), hf]

/-! ### What the forest of a table looks like -/

theorem State.ForestOk.length_le {s : State} (h : s.ForestOk) : s.ft.length ≤ s.nd.length := by
  obtain ⟨-, -, hleaves, -⟩ := h
  have := congrArg List.length hleaves
  simp [leaves] at this
  omega

theorem State.ForestOk.nextSeq_eq {s : State} (h : s.ForestOk) : s.nextSeq = s.nd.length := h.2.1

theorem State.ForestOk.length_add {s : State} (h : s.ForestOk) :
    s.nd.length + s.pq.length = 2 * s.ft.length := h.1

/-- The nodes at and above `FTN` are internal (R40). -/
theorem State.ForestOk.internal {s : State} (h : s.ForestOk) {k : Nat} (hk : k < s.nd.length)
    (hn : s.ft.length ≤ k) : internalOk s.nd k = true := by
  obtain ⟨-, -, -, hint, -⟩ := h
  exact hint k hk hn

/-- Every node is a root in the queue or a child, once (R40). -/
theorem State.ForestOk.count {s : State} (h : s.ForestOk) {k : Nat} (hk : k < s.nd.length) :
    (s.pq.map QElem.node).count k + (s.nd.flatMap Node.children).count k = 1 := by
  obtain ⟨-, -, -, -, hcount, -⟩ := h
  exact hcount k hk

/-- An element of the queue is the root of a tree (R28). -/
theorem State.ForestOk.mem_queue {s : State} (h : s.ForestOk) {q : QElem} (hq : q ∈ s.pq) :
    q.node < s.nd.length ∧ q.seq = q.node ∧ q.freq = freqAt s.nd q.node := by
  obtain ⟨-, -, -, -, -, hqueue, -⟩ := h
  exact hqueue q hq

theorem State.ForestOk.seq_rising {s : State} (h : s.ForestOk) :
    (s.pq.map QElem.seq).Pairwise (· < ·) := by
  obtain ⟨-, -, -, -, -, -, hrise, -⟩ := h
  exact hrise

/-- A node below `FTN` is the leaf of its entry (R40). -/
theorem State.ForestOk.leaf {s : State} (h : s.ForestOk) {k : Nat} (hk : k < s.ft.length) :
    s.nd[k]? = some (.leaf s.ft[k].sym s.ft[k].cnt.toNat) := by
  obtain ⟨-, -, hleaves, -⟩ := h
  rw [← List.getElem?_take_of_lt hk, hleaves]
  simp [leaves, hk]

/-- Every leaf in the store carries the symbol of an entry (R40). -/
theorem State.ForestOk.leaf_mem {s : State} (h : s.ForestOk) {sym : Symbol} {f : Nat}
    (hm : Node.leaf sym f ∈ s.nd) : ∃ e ∈ s.ft, e.sym = sym := by
  obtain ⟨k, hk⟩ := List.mem_iff_getElem?.mp hm
  by_cases hn : k < s.ft.length
  · have hl := h.leaf hn
    rw [hk] at hl
    exact ⟨s.ft[k], List.getElem_mem hn, by simp_all⟩
  · obtain ⟨f', l, r, hi, -⟩ :=
      internalOk_iff.mp (h.internal (List.getElem?_eq_some_iff.mp hk).1 (not_lt.mp hn))
    rw [hk] at hi
    cases hi

/-- Children are nodes of the store (R40). -/
theorem State.ForestOk.child_lt {s : State} (h : s.ForestOk) {c : Nat}
    (hc : c ∈ s.nd.flatMap Node.children) : c < s.nd.length := by
  obtain ⟨x, hx, hcx⟩ := List.mem_flatMap.mp hc
  obtain ⟨k, hk⟩ := List.mem_iff_getElem?.mp hx
  have hlt := (List.getElem?_eq_some_iff.mp hk).1
  by_cases hn : k < s.ft.length
  · rw [h.leaf hn] at hk
    cases hk
    simp [Node.children] at hcx
  · obtain ⟨f, l, r, hi, hl, hr, -⟩ := internalOk_iff.mp (h.internal hlt (not_lt.mp hn))
    rw [hk] at hi
    cases hi
    simp only [Node.children, List.mem_cons, List.not_mem_nil, or_false] at hcx
    rcases hcx with rfl | rfl
    · exact hl.trans hlt
    · exact hr.trans hlt

/-! ### HT.INI (R122) -/

theorem firstQueue_map_node (ft : List Entry) :
    (firstQueue ft).map QElem.node = List.range ft.length := by
  simp [firstQueue, List.map_map, Function.comp_def, List.zipIdx_eq_zip_range', List.range_eq_range',
    List.map_snd_zip]

theorem firstQueue_map_seq (ft : List Entry) :
    (firstQueue ft).map QElem.seq = List.range ft.length := by
  rw [← firstQueue_map_node]
  simp [firstQueue, Function.comp_def]

theorem firstQueue_map_freq (ft : List Entry) :
    (firstQueue ft).map QElem.freq = ft.map fun e => e.cnt.toNat := by
  simp only [firstQueue, List.map_map, Function.comp_def]
  conv_rhs => rw [← List.zipIdx_map_fst 0 ft, List.map_map]
  rfl

@[simp] theorem firstQueue_length (ft : List Entry) : (firstQueue ft).length = ft.length := by
  simp [firstQueue]

@[simp] theorem leaves_length (ft : List Entry) : (leaves ft).length = ft.length := by simp [leaves]

/-- The element of leaf `i` has the count of entry `i` (R122). -/
theorem mem_firstQueue {ft : List Entry} {q : QElem} (h : q ∈ firstQueue ft) :
    q.node < ft.length ∧ q.seq = q.node ∧ q.freq = freqAt (leaves ft) q.node := by
  obtain ⟨⟨e, i⟩, hm, rfl⟩ := List.mem_map.mp h
  have hi : ft[i]? = some e := List.mk_mem_zipIdx_iff_getElem?.mp hm
  obtain ⟨hlt, -⟩ := List.getElem?_eq_some_iff.mp hi
  exact ⟨hlt, rfl, by simp [freqAt, leaves, hi, Node.freq]⟩

theorem count_le_totalCount {ft : List Entry} {e : Entry} (h : e ∈ ft) :
    e.cnt.toNat ≤ totalCount ft :=
  List.le_sum_of_mem (List.mem_map_of_mem h)

theorem initTree_forestOk (s : State) : (initTree s).ForestOk := by
  refine ⟨?_, ?_, ?_, ?_, ?_, ?_, ?_, ?_, ?_⟩
  · simp; omega
  · simp
  · simp [List.take_of_length_le]
  · intro k hk hn
    simp only [initTree_nd, leaves_length, initTree_ft] at hk hn
    omega
  · intro k hk
    have hchild : (leaves s.ft).flatMap Node.children = [] := by simp [leaves, Node.children]
    have hk' : k ∈ List.range s.ft.length := by simpa using hk
    simp only [initTree_nd, initTree_pq, hchild, firstQueue_map_node, List.count_nil, Nat.add_zero]
    exact List.count_eq_one_of_mem List.nodup_range hk'
  · intro q hq
    simpa using mem_firstQueue hq
  · simpa [firstQueue_map_seq] using List.pairwise_lt_range
  · simp [firstQueue_map_freq, totalCount]
  · intro x hx
    obtain ⟨e, he, rfl⟩ := List.mem_map.mp hx
    exact count_le_totalCount he

/-! ### HT.MRG (R123) -/

/-- What a merge leaves when A and B have been extracted from the queue (R123). -/
def merged (a b : QElem) (rest : List QElem) (s : State) : State :=
  if rest.length = 0 then (combine a b rest s).treeValid s.nd.length else combine a b rest s

theorem merged_of_ne_nil {rest : List QElem} (h : rest ≠ []) (a b : QElem) (s : State) :
    merged a b rest s = combine a b rest s := by simp [merged, h]

/-- A merge step is done exactly with the least two elements merged (R121, R123). -/
theorem mergeStep_eq_done {s t : State} {v : Word} (h : mergeStep s = .done t v) :
    ∃ a b q1 q2, extractMin s.pq = some (a, q1) ∧ extractMin q1 = some (b, q2) ∧ t = merged a b q2 s := by
  rcases mergeStep_cases s with ⟨-, he⟩ | ⟨a, b, q1, q2, h1, h2, he⟩
  · rw [he] at h; cases h
  · rw [he] at h
    cases h
    exact ⟨a, b, q1, q2, h1, h2, rfl⟩

theorem mergeStep_of_extract {s : State} {a b : QElem} {q1 q2 : List QElem}
    (h1 : extractMin s.pq = some (a, q1)) (h2 : extractMin q1 = some (b, q2)) :
    mergeStep s = .done (merged a b q2 s) (num (q2.length + 1)) := by
  rcases mergeStep_cases s with ⟨hlt, -⟩ | ⟨a', b', q1', q2', h1', h2', he⟩
  · have := extractMin_length h1
    have := extractMin_length h2
    omega
  · rw [h1] at h1'
    cases h1'
    rw [h2] at h2'
    cases h2'
    exact he

/-- A queue of two or more elements can be merged (R123). -/
theorem exists_mergeStep_done {s : State} (h : 2 ≤ s.pq.length) : ∃ t v, mergeStep s = .done t v := by
  rcases mergeStep_cases s with ⟨hlt, -⟩ | ⟨a, b, q1, q2, -, -, he⟩
  · omega
  · exact ⟨_, _, he⟩

theorem extractMin_two_perm {q q1 q2 : List QElem} {a b : QElem}
    (h1 : extractMin q = some (a, q1)) (h2 : extractMin q1 = some (b, q2)) :
    q.Perm (a :: b :: q2) ∧ q2.Sublist q := by
  obtain ⟨p1, s1⟩ := extractMin_perm h1
  obtain ⟨p2, s2⟩ := extractMin_perm h2
  exact ⟨p1.trans (p2.cons a), s2.trans s1⟩

/-! The clauses of the forest that take a proof after a merge; the queue is A, B and the rest, in some order. -/

section
variable {s : State} {a b : QElem} {rest : List QElem}

/-- The new node is internal, and the old ones stay so (R40). -/
theorem combine_internalOk (h : s.ForestOk) (hperm : s.pq.Perm (a :: b :: rest)) {k : Nat}
    (hk : k < s.nd.length + 1) (hn : s.ft.length ≤ k) : internalOk (combine a b rest s).nd k = true := by
  rw [combine_nd]
  rcases Nat.lt_succ_iff_lt_or_eq.mp hk with hlt | rfl
  · exact internalOk_append _ hlt (h.internal hlt hn)
  · obtain ⟨ha, -, hfa⟩ := h.mem_queue (hperm.mem_iff.mpr (by simp : a ∈ _))
    obtain ⟨hb, -, hfb⟩ := h.mem_queue (hperm.mem_iff.mpr (by simp : b ∈ _))
    refine internalOk_iff.mpr ⟨a.freq + b.freq, a.node, b.node, by simp, ha, hb, ?_⟩
    rw [freqAt_append _ ha, freqAt_append _ hb, hfa, hfb]

/-- A and B leave the queue and become the children of the new node, which no node has as a child (R40). -/
theorem combine_count (h : s.ForestOk) (hperm : s.pq.Perm (a :: b :: rest)) {k : Nat}
    (hk : k < s.nd.length + 1) :
    ((combine a b rest s).pq.map QElem.node).count k +
      ((combine a b rest s).nd.flatMap Node.children).count k = 1 := by
  simp only [combine_nd, combine_pq, List.map_append, List.map_cons, List.map_nil, List.flatMap_append,
    List.flatMap_singleton, Node.children, List.count_append, List.count_cons, List.count_nil]
  have hnode : ∀ q ∈ a :: b :: rest, q.node < s.nd.length := fun q hq =>
    (h.mem_queue (hperm.mem_iff.mpr hq)).1
  rcases Nat.lt_succ_iff_lt_or_eq.mp hk with hlt | rfl
  · have hold := h.count hlt
    rw [(hperm.map QElem.node).count_eq k] at hold
    have hne : (s.nd.length == k) = false := by simpa using hlt.ne'
    simp only [List.map_cons, List.count_cons] at hold
    simp only [hne, Bool.false_eq_true, if_false]
    omega
  · have hrest : (rest.map QElem.node).count s.nd.length = 0 := by
      refine List.count_eq_zero.mpr fun hm => ?_
      obtain ⟨q, hq, hqn⟩ := List.mem_map.mp hm
      exact (hnode q (by simp [hq])).ne hqn
    have hchild : (s.nd.flatMap Node.children).count s.nd.length = 0 :=
      List.count_eq_zero.mpr fun hm => absurd (h.child_lt hm) (lt_irrefl _)
    simp [hrest, hchild, (hnode a (by simp)).ne, (hnode b (by simp)).ne]

/-- The elements of the queue are the roots of the trees, the new one included (R28). -/
theorem combine_mem_queue (h : s.ForestOk) (hsub : rest.Sublist s.pq) {q : QElem}
    (hq : q ∈ (combine a b rest s).pq) :
    q.node < s.nd.length + 1 ∧ q.seq = q.node ∧ q.freq = freqAt (combine a b rest s).nd q.node := by
  rw [combine_nd]
  rcases List.mem_append.mp hq with hq | hq
  · obtain ⟨hn, hs, hf⟩ := h.mem_queue (hsub.subset hq)
    exact ⟨hn.trans (Nat.lt_succ_self _), hs, by rw [freqAt_append _ hn, hf]⟩
  · rw [List.mem_singleton.mp hq]
    exact ⟨Nat.lt_succ_self _, h.nextSeq_eq, by simp [freqAt, Node.freq]⟩

/-- The new tree has the highest insertion index (R28). -/
theorem combine_seq_rising (h : s.ForestOk) (hsub : rest.Sublist s.pq) :
    ((combine a b rest s).pq.map QElem.seq).Pairwise (· < ·) := by
  simp only [combine_pq, List.map_append, List.map_cons, List.map_nil]
  refine List.pairwise_append.mpr ⟨h.seq_rising.sublist (hsub.map QElem.seq), by simp, ?_⟩
  intro x hx y hy
  obtain ⟨q, hq, rfl⟩ := List.mem_map.mp hx
  obtain ⟨hn, hs, -⟩ := h.mem_queue (hsub.subset hq)
  rw [List.mem_singleton.mp hy, hs, h.nextSeq_eq]
  exact hn

/-- A merge keeps the forest: the two trees leave the queue and enter it as one (R40, R123). -/
theorem combine_forestOk (h : s.ForestOk) (hperm : s.pq.Perm (a :: b :: rest))
    (hsub : rest.Sublist s.pq) : (combine a b rest s).ForestOk := by
  have hle := h.length_le
  have hint := fun k => combine_internalOk h hperm (k := k)
  have hcount := fun k => combine_count h hperm (k := k)
  have hrise := combine_seq_rising (a := a) (b := b) h hsub
  have hqueue := fun q => combine_mem_queue (a := a) (b := b) h hsub (q := q)
  obtain ⟨hlen, hseq, hleaves, -, -, -, -, hsum, hmax⟩ := h
  have hplen : s.pq.length = rest.length + 2 := hperm.length_eq
  have hpsum : (s.pq.map QElem.freq).sum = a.freq + (b.freq + (rest.map QElem.freq).sum) := by
    simpa using (hperm.map QElem.freq).sum_eq
  refine ⟨?_, ?_, ?_, fun k hk => hint k (by simpa using hk), fun k hk => hcount k (by simpa using hk),
    fun q hq => by simpa using hqueue q hq, hrise, ?_, ?_⟩
  · simp; omega
  · simp [hseq]
  · simpa [List.take_append_of_le_length hle] using hleaves
  · simp; omega
  · intro x hx
    rcases List.mem_append.mp hx with hx | hx
    · exact hmax x hx
    · rw [List.mem_singleton.mp hx]
      show a.freq + b.freq ≤ totalCount s.ft
      omega

end

/-! ### The tree registers follow from the table alone (R33, R125) -/

/-- The registers of the tree that R125 speaks of. -/
def State.treeData (s : State) : List Node × List QElem × Nat × Nat × TreeState :=
  (s.nd, s.pq, s.nextSeq, s.root, s.tst)

theorem treePart_eq_some {r : Run Unit} {d : List Node × List QElem × Nat × Nat × TreeState} :
    treePart r = some d ↔ ∃ t, r = .done t () ∧ t.treeData = d := by
  cases r <;> simp [treePart, State.treeData]

/-- A merge step sees nothing but the registers of the tree (R123, R125). -/
theorem mergeStep_congr {s t u : State} {v : Word} (h : s.treeData = t.treeData)
    (hd : mergeStep s = .done u v) : ∃ w, mergeStep t = .done w v ∧ w.treeData = u.treeData := by
  obtain ⟨a, b, q1, q2, h1, h2, rfl⟩ := mergeStep_eq_done hd
  obtain ⟨hnd, hpq, hns, hroot, htst⟩ :
      s.nd = t.nd ∧ s.pq = t.pq ∧ s.nextSeq = t.nextSeq ∧ s.root = t.root ∧ s.tst = t.tst := by
    simpa [State.treeData] using h
  rw [mergeStep_of_extract h1 h2] at hd
  cases hd
  refine ⟨_, mergeStep_of_extract (hpq ▸ h1) h2, ?_⟩
  by_cases hq : q2 = []
  · simp [merged, hq, State.treeData, hnd, hns]
  · simp [merged, hq, State.treeData, hnd, hns, hroot, htst]

/-- One merge more on a table (R125). -/
theorem tableTree_succ {s u : State} {m : Nat} {v : Word} {ft : List Entry}
    (h : tableTree ft m = some s.treeData) (hd : mergeStep s = .done u v) :
    tableTree ft (m + 1) = some u.treeData := by
  obtain ⟨t, ht, hdata⟩ := treePart_eq_some.mp h
  obtain ⟨w, hw, hwdata⟩ := mergeStep_congr hdata.symm hd
  exact treePart_eq_some.mpr ⟨w, by simp [merges, ht, hw], hwdata⟩

/-! ### The invariant of the tree registers -/

/-- The part of `State.Inv` about the tree registers (R33, R40, R41). -/
structure State.TreeInv (s : State) : Prop where
  /-- R40, R41 -/
  tree : s.TreeOk
  /-- R33, R125 -/
  ofTable : s.TreeOfTable

theorem State.TreeInv.underWay {s : State} (h : s.TreeInv) (ht : s.tst = .building) : s.TreeUnderWay :=
  h.tree.2.1 ht

theorem State.TreeInv.complete {s : State} (h : s.TreeInv) (ht : s.tst = .valid) : s.TreeComplete :=
  h.tree.2.2 ht

/-- `TST = NONE` (R33). -/
theorem State.NoTree.treeInv {s : State} (h : s.NoTree) (ht : s.tst = .none) : s.TreeInv where
  tree := ⟨fun _ => h, by simp [ht], by simp [ht]⟩
  ofTable := fun hn => absurd ht hn

/-- `TST = BUILDING` (R33). -/
theorem State.TreeUnderWay.treeInv {s : State} (h : s.TreeUnderWay) (ht : s.tst = .building)
    (hdata : s.TreeOfTable) : s.TreeInv where
  tree := ⟨by simp [ht], fun _ => h, by simp [ht]⟩
  ofTable := hdata

/-- `TST = VALID` (R33). -/
theorem State.TreeComplete.treeInv {s : State} (h : s.TreeComplete) (ht : s.tst = .valid)
    (hdata : s.TreeOfTable) : s.TreeInv where
  tree := ⟨by simp [ht], by simp [ht], fun _ => h⟩
  ofTable := hdata

/-- HT.INI establishes the invariant of the tree registers on every table (R122). -/
theorem initTree_treeInv (s : State) : (initTree s).TreeInv := by
  have hforest := initTree_forestOk s
  have hdata : (initTree s).TreeOfTable := by
    intro _
    simp [tableTree, merges, treePart]
  by_cases hn : 2 ≤ s.ft.length
  · exact State.TreeUnderWay.treeInv ⟨by simpa using hn, rfl, rfl, rfl, hforest⟩ (by simp [hn]) hdata
  · refine State.TreeComplete.treeInv ⟨?_, ?_, ?_, fun _ => rfl, hforest⟩ (by simp [hn]) hdata
    · simp; omega
    · simp; omega
    · intro h2
      exact absurd (by simpa using h2) hn

/-- A merge keeps the invariant of the tree registers (R123). -/
theorem mergeStep_treeInv {s t : State} {v : Word} (h : s.TreeInv) (hb : s.tst = .building)
    (hd : mergeStep s = .done t v) : t.TreeInv := by
  obtain ⟨hpq, hroot, hwalk, hdpos, hforest⟩ := h.underWay hb
  obtain ⟨a, b, q1, q2, h1, h2, rfl⟩ := mergeStep_eq_done hd
  obtain ⟨hperm, hsub⟩ := extractMin_two_perm h1 h2
  have hforest' := combine_forestOk hforest hperm hsub
  have hle := hforest.length_le
  have hlen := hforest.length_add
  have hplen : s.pq.length = q2.length + 2 := hperm.length_eq
  have hsucc : tableTree s.ft (s.nd.length + 1 - s.ft.length) = some (merged a b q2 s).treeData := by
    rw [Nat.succ_sub hle]
    exact tableTree_succ (h.ofTable (by simp [hb])) hd
  by_cases hq : q2 = []
  · subst hq
    refine State.TreeComplete.treeInv ⟨?_, ?_, ?_, ?_, hforest'⟩ rfl fun _ => ?_
    · simp only [List.length_nil] at hplen
      simp [merged]; omega
    · simp [merged]
    · intro _
      simp [merged, isInternal]
    · simp [merged]
    · simpa [merged, State.treeData] using hsucc
  · rw [merged_of_ne_nil hq] at hsucc ⊢
    refine State.TreeUnderWay.treeInv ⟨?_, hroot, hwalk, hdpos, hforest'⟩ hb fun _ => ?_
    · simpa [Nat.one_le_iff_ne_zero] using hq
    · simpa [State.treeData] using hsucc

/-- A merge leaves a tree that is under way or complete (R33). -/
theorem mergeStep_tst_ne_none {s t : State} {v : Word} (hb : s.tst = .building)
    (hd : mergeStep s = .done t v) : t.tst ≠ .none := by
  obtain ⟨a, b, q1, q2, -, -, rfl⟩ := mergeStep_eq_done hd
  by_cases hq : q2 = []
  · simp [merged, hq]
  · simp [merged, hq, hb]

/-- A merge makes the queue one shorter (R123). -/
theorem mergeStep_pq_length {s t : State} {v : Word} (hd : mergeStep s = .done t v) :
    t.pq.length + 1 = s.pq.length := by
  obtain ⟨a, b, q1, q2, h1, h2, rfl⟩ := mergeStep_eq_done hd
  have hplen : s.pq.length = q2.length + 2 := (extractMin_two_perm h1 h2).1.length_eq
  have hm : (merged a b q2 s).pq = (combine a b q2 s).pq := by unfold merged; split <;> rfl
  simp [hm, hplen]

/-! ### HT.BLD (R124, R220) -/

/-- A merge writes the tree registers alone: HT.DIS leaves the same state before and after it (R127). -/
theorem mergeStep_dropTree {s t : State} {v : Word} (hd : mergeStep s = .done t v) :
    t.dropTree = s.dropTree := by
  obtain ⟨a, b, q1, q2, -, -, rfl⟩ := mergeStep_eq_done hd
  unfold merged
  split <;> rfl

theorem isBuilding_iff {s : State} : s.isBuilding = true ↔ s.tst = .building := by
  simp [State.isBuilding]

theorem hasTree_iff {s : State} : s.hasTree = true ↔ s.tst = .valid := by simp [State.hasTree]

/-- The merges end with a complete tree within their bound (R124, R220). -/
theorem mergeLoop_done {n : Nat} {s : State} (h : s.TreeInv) (hne : s.tst ≠ .none)
    (hn : s.tst = .building → s.pq.length ≤ n + 1) :
    ∃ t, mergeLoop n s = .done t () ∧ t.tst = .valid ∧ t.TreeInv ∧ t.dropTree = s.dropTree := by
  induction n generalizing s with
  | zero =>
    have hb : s.tst ≠ .building := fun hb => by
      have := hn hb
      have := (h.underWay hb).1
      omega
    refine ⟨s, by simp [mergeLoop, isBuilding_iff, hb], ?_, h, rfl⟩
    cases ht : s.tst <;> simp_all
  | succ n ih =>
    by_cases hb : s.tst = .building
    · obtain ⟨u, v, hu⟩ := exists_mergeStep_done (h.underWay hb).1
      have hlen := mergeStep_pq_length hu
      obtain ⟨t, ht, hv, hi, hd⟩ := ih (mergeStep_treeInv h hb hu) (mergeStep_tst_ne_none hb hu)
        fun _ => by have := hn hb; omega
      refine ⟨t, ?_, hv, hi, hd.trans (mergeStep_dropTree hu)⟩
      rw [mergeLoop, if_pos (isBuilding_iff.mpr hb), hu, Run.bind_done, ht]
    · refine ⟨s, by simp [mergeLoop, isBuilding_iff, hb], ?_, h, rfl⟩
      cases ht : s.tst <;> simp_all

/-- HT.BLD completes on every table, with the tree of that table, and writes no other item (R124). -/
theorem buildTree_done (s : State) :
    ∃ t, buildTree s = .done t () ∧ t.tst = .valid ∧ t.TreeInv ∧ t.dropTree = s.dropTree := by
  refine mergeLoop_done (initTree_treeInv s) ?_ fun _ => ?_
  · by_cases hn : 2 ≤ s.ft.length <;> simp [hn]
  · simp; omega

/-- The tree registers of a complete tree are those of its table (R125). -/
theorem treeData_eq_of_valid {s t : State} (hs : s.TreeInv) (ht : t.TreeInv) (hsv : s.tst = .valid)
    (htv : t.tst = .valid) (hft : s.ft = t.ft) : s.treeData = t.treeData := by
  obtain ⟨hspq, -, -, -, hsf⟩ := hs.complete hsv
  obtain ⟨htpq, -, -, -, htf⟩ := ht.complete htv
  have hnd : s.nd.length = t.nd.length := by
    have h1 := hsf.length_add
    have h2 := htf.length_add
    rw [hspq, hft] at h1
    rw [htpq] at h2
    omega
  have h1 := hs.ofTable (by simp [hsv])
  have h2 := ht.ofTable (by simp [htv])
  rw [hft, hnd, h2] at h1
  exact Option.some.inj h1.symm

/-- CB.DRV reads nothing but the node store, the root and the size of the table (R140). -/
theorem codesOf_congr {s t : State} (hnd : s.nd = t.nd) (hroot : s.root = t.root)
    (hft : s.ft = t.ft) : codesOf s = codesOf t := by
  simp only [codesOf, hnd, hroot, hft]

/-- The codes of a complete tree are those of its table (R125, R140). -/
theorem tableCodes_of_valid {s : State} {cb : List Bits} (h : s.TreeInv) (hv : s.tst = .valid)
    (hcb : codesOf s = .ok cb) : tableCodes s.ft = some cb := by
  obtain ⟨t, ht, htv, hti, hdrop⟩ := buildTree_done { State.reset with ft := s.ft }
  have hft : s.ft = t.ft := (congrArg State.ft hdrop).symm
  have hdata := treeData_eq_of_valid h hti hv htv hft
  have hcodes : codesOf t = .ok cb := by
    rw [← hcb]
    exact codesOf_congr (congrArg (·.1) hdata).symm (congrArg (·.2.2.2.1) hdata).symm hft.symm
  simp [tableCodes, ht, hcodes]

end Sys2Proof.Machine

/-! ## What a command's pseudocode is, and how it ends -/

namespace Sys2Proof.Machine

/-- What a run leaves: `post` of the state and the result where it is done, `exc` of the state where it
raises a fault. Nothing is said of a run that is stuck. -/
def Run.Sat {α : Type} (r : Run α) (post : State → α → Prop) (exc : State → Prop) : Prop :=
  match r with
  | .done t a => post t a
  | .raised t _ _ => exc t
  | .stuck _ => True

/-- Whatever way the run ends, it leaves a state with this property. -/
abbrev Run.Keeps {α : Type} (r : Run α) (P : State → Prop) : Prop := r.Sat (fun t _ => P t) P

theorem Run.Sat.bind {α β : Type} {r : Run α} {f : State → α → Run β} {post : State → α → Prop}
    {post' : State → β → Prop} {exc : State → Prop} (hr : r.Sat post exc)
    (hf : ∀ t a, post t a → (f t a).Sat post' exc) : (r.bind f).Sat post' exc := by
  cases r with
  | done t a => exact hf t a hr
  | raised t k p => exact hr
  | stuck e => trivial

theorem Run.Sat.mono {α : Type} {r : Run α} {post post' : State → α → Prop} {exc exc' : State → Prop}
    (hr : r.Sat post exc) (hp : ∀ t a, post t a → post' t a) (he : ∀ t, exc t → exc' t) :
    r.Sat post' exc' := by
  cases r with
  | done t a => exact hp t a hr
  | raised t k p => exact he t hr
  | stuck e => trivial

theorem require_sat {α : Type} {c : Bool} {s : State} {r : Run α} {post : State → α → Prop}
    {exc : State → Prop} (hs : exc s) (hr : c = true → r.Sat post exc) : (require c s r).Sat post exc := by
  cases c with
  | true => exact hr rfl
  | false => exact hs

/-- The pseudocode of every command, behind its operand check (R199 step 5). -/
def pseudocode (i : Instr) (s : State) : Run Word :=
  match i with
  | .sysRst => .done s.powerOn 0#64
  | .sysRd r =>
    match readRegister s r with
    | some v => .done s v
    | none => .raised s .illegalCommand none
  | .ftClr => .done (clearTable s) 0#64
  | .ftCnt sym => countSymbol sym s
  | .ftPut sym v => putEntry sym v s
  | .ftSym idx => readEntry idx (fun e => e.sym.setWidth 64) s
  | .ftFrq idx => readEntry idx (fun e => e.cnt.setWidth 64) s
  | .bsClr k => .done (clearSlot k s) 0#64
  | .bsApp k v => appendOperand k v s
  | .bsExt k j => thenLen k (appendBits k (s.bits j) s)
  | .bsGet k idx => getBit k idx s
  | .bsTob k => toBytes k s
  | .bsFrb k v => thenLen k (fromBytes k s.buf v.toNat none s)
  | .bsFrba k => thenLen k (fromBytes k s.buf (8 * s.buf.length) none s)
  | .bsEq k j => .done s (num (s.bits k == s.bits j).toNat)
  | .bsHash k => .done s (Config.hashFn (s.bits k))
  | .bsRwd k => .done (s.setCur k 0) 0#64
  | .bsNxt k => nextBit k s
  | .bufClr => .done { s with buf := [] } 0#64
  | .bufPush byte => pushByte byte s
  | .bufLd idx => loadByte idx s
  | .bufSt byte idx => storeByte byte idx s
  | .bufTrn v => truncate v s
  | .txtClr => .done { s with txt := [] } 0#64
  | .txtPush sym => pushSymbol sym s
  | .txtLd idx => loadSymbol idx s
  | .htIni => .done (initTree s) (num (initTree s).pq.length)
  | .htMrg => require s.isBuilding s (mergeStep s)
  | .htBld => (buildTree s).bind fun u _ => .done u (num u.nd.length)
  | .htDis => .done s.dropTree 0#64
  | .htNdk idx => readNode idx Node.kindSym s
  | .htNdf idx => readNode idx (fun nd => some (num nd.freq)) s
  | .htNdl idx => readNode idx Node.leftChild s
  | .htNdr idx => readNode idx Node.rightChild s
  | .cbDrv => require s.hasTree s ((deriveCodebook s).bind fun u _ => .done u (num u.ft.length))
  | .encSym k sym => require s.cvalid s (thenLen k (encodeSymbol k sym none s))
  | .encRun k => encodeRun k s
  | .decRst => require s.hasTree s (.done (walkToRoot s) 0#64)
  | .decBit v => require s.hasTree s (decodeOperand v s)
  | .decEnd => require s.hasTree s ((checkEnd s).bind fun u _ => .done u 0#64)
  | .decRun k => decodeRun k s
  | .czWr k => writeFile k s
  | .czRd k => readFile k s

/-- Every command but SYS.RST and SYS.RD is its operand check and its pseudocode (R199). -/
theorem exec_eq_command (i : Instr) (s : State) (hrst : i ≠ .sysRst) (hrd : ∀ r, i ≠ .sysRd r) :
    exec i s = command i.wellFormed (pseudocode i) s := by
  cases i with
  | sysRst => exact absurd rfl hrst
  | sysRd r => exact absurd rfl (hrd r)
  | _ => rfl

theorem exec_sysRst (s : State) : exec .sysRst s = .next (s.powerOn.respond .ok 0#64) := rfl

/-- SYS.RD reads a register, or is answered like a word that spells no command (R184). -/
theorem exec_sysRd_cases (r : BitVec 8) (s : State) :
    (∃ v, readRegister s r = some v ∧ exec (.sysRd r) s = .next (s.respond .ok v)) ∨
    exec (.sysRd r) s = illegalWord s := by
  show (∃ v, _ ∧ execSysRd r s = _) ∨ execSysRd r s = _
  unfold execSysRd
  cases readRegister s r with
  | some v => exact .inl ⟨v, rfl, rfl⟩
  | none => exact .inr rfl

/-! ### Properties that the end of a command keeps -/

/-- Neither a response nor the taking of a fault breaks the property (R73, R198). -/
structure EndStable (P : State → Prop) : Prop where
  respond : ∀ s st v, P s → P (s.respond st v)
  raise : ∀ s k pos, P s → P (s.raise k pos)

variable {P : State → Prop}

theorem command_keeps (hP : EndStable P) {l : Bool} {body : State → Run Word} {s t : State} (hs : P s)
    (hb : l = true → (body s).Keeps P) (h : command l body s = .next t) : P t := by
  rcases command_next h with ⟨-, rfl⟩ | ⟨-, -, rfl⟩ | ⟨-, hl, u, v, hu, rfl⟩ | ⟨-, hl, u, k, p, hu, rfl⟩
  · exact hP.respond _ _ _ hs
  · exact hP.respond _ _ _ (hP.raise _ _ _ hs)
  · have := hb hl
    rw [hu] at this
    exact hP.respond _ _ _ this
  · have := hb hl
    rw [hu] at this
    exact hP.respond _ _ _ (hP.raise _ _ _ this)

theorem illegalWord_keeps (hP : EndStable P) {s t : State} (hs : P s) (h : illegalWord s = .next t) :
    P t := command_keeps hP hs (fun hl => by cases hl) h

/-- A property of the state before a command, of the reset state, and of every state its pseudocode can
end in, holds of the state after the command. -/
theorem exec_keeps (hP : EndStable P) {i : Instr} {s t : State} (hs : P s) (hreset : P s.powerOn)
    (hb : i.wellFormed = true → (pseudocode i s).Keeps P) (h : exec i s = .next t) : P t := by
  by_cases hrst : i = .sysRst
  · subst hrst
    rw [exec_sysRst] at h
    cases h
    exact hP.respond _ _ _ hreset
  by_cases hrd : ∃ r, i = .sysRd r
  · obtain ⟨r, rfl⟩ := hrd
    rcases exec_sysRd_cases r s with ⟨v, -, he⟩ | he <;> rw [he] at h
    · cases h
      exact hP.respond _ _ _ hs
    · exact illegalWord_keeps hP hs h
  · rw [exec_eq_command i s hrst (not_exists.mp hrd)] at h
    exact command_keeps hP hs hb h

theorem execWord_keeps (hP : EndStable P) {w : Word} {s t : State} (hs : P s) (hreset : P s.powerOn)
    (hb : ∀ i : Instr, i.wellFormed = true → (pseudocode i s).Keeps P) (h : execWord w s = .next t) :
    P t := by
  unfold execWord at h
  cases hd : decode w with
  | ok i => rw [hd] at h; exact exec_keeps hP hs hreset (hb i) h
  | error e => rw [hd] at h; exact illegalWord_keeps hP hs h

end Sys2Proof.Machine

/-! ## The invariant under each write of the state (10_state.md R38 to R41) -/

namespace Sys2Proof.Machine

/-- The invariant is that of the tree registers and that of everything else. -/
theorem State.inv_iff_dropTree {s : State} : s.Inv ↔ s.dropTree.Inv ∧ s.TreeInv := by
  constructor
  · intro h
    have hno : s.dropTree.TreeInv := State.NoTree.treeInv ⟨rfl, rfl, rfl, rfl, rfl, rfl⟩ rfl
    exact ⟨⟨h.caps, h.table, h.streams, h.spaces, h.faultRegs, hno.tree, hno.ofTable, h.codebook⟩,
      h.tree, h.treeOfTable⟩
  · rintro ⟨h, ht⟩
    exact ⟨h.caps, h.table, h.streams, h.spaces, h.faultRegs, ht.tree, ht.ofTable, h.codebook⟩

variable {s : State}

theorem State.Inv.treeInv (h : s.Inv) : s.TreeInv := (State.inv_iff_dropTree.mp h).2

/-- HT.DIS (R127). -/
theorem State.Inv.dropTree (h : s.Inv) : s.dropTree.Inv := (State.inv_iff_dropTree.mp h).1

/-- A write of the tree registers alone, to a tree of the table. -/
theorem State.Inv.setTree {t : State} (h : s.Inv) (hd : t.dropTree = s.dropTree) (ht : t.TreeInv) :
    t.Inv := State.inv_iff_dropTree.mpr ⟨hd ▸ h.dropTree, ht⟩

/-- A response (R73). -/
theorem State.Inv.respond (h : s.Inv) (st : Status) (v : Word) : (s.respond st v).Inv :=
  ⟨h.caps, h.table, h.streams, h.spaces, h.faultRegs, h.tree, h.treeOfTable, h.codebook⟩

/-- A word taken from the host's sequence. -/
theorem State.Inv.setCmds (h : s.Inv) (cmds : List Word) : { s with cmds := cmds }.Inv :=
  ⟨h.caps, h.table, h.streams, h.spaces, h.faultRegs, h.tree, h.treeOfTable, h.codebook⟩

/-- The taking of a fault (R198): without a position FPOS is 0. -/
theorem State.Inv.raise (h : s.Inv) (k : FaultKind) (pos : Option Nat) : (s.raise k pos).Inv where
  caps := h.caps
  table := h.table
  streams := h.streams
  spaces := h.spaces
  faultRegs := by cases pos <;> simp [State.FaultOk]
  tree := h.tree
  treeOfTable := h.treeOfTable
  codebook := h.codebook

/-- Reset (R42, R183): only the capacities matter. -/
theorem State.powerOn_inv (h : s.CapsOk) : s.powerOn.Inv := by
  have hno : s.powerOn.TreeInv := State.NoTree.treeInv ⟨rfl, rfl, rfl, rfl, rfl, rfl⟩ rfl
  exact ⟨h, ⟨Nat.zero_le _, fun e he => absurd he List.not_mem_nil⟩,
    ⟨⟨Nat.zero_le _, le_rfl⟩, Nat.zero_le _, le_rfl⟩, ⟨Nat.zero_le _, Nat.zero_le _, rfl⟩,
    ⟨fun _ => rfl, fun _ => rfl⟩, hno.tree, hno.ofTable, rfl⟩

/-- A new table, without tree and codebook (R90). -/
theorem State.Inv.setTable (h : s.Inv) {ft : List Entry} (hlen : ft.length ≤ s.ftCap)
    (hok : ∀ e ∈ ft, e.cnt ≠ 0#32 ∧ isScalar e.sym = true) : (s.setTable ft).Inv := by
  have hno : (s.setTable ft).TreeInv := State.NoTree.treeInv ⟨rfl, rfl, rfl, rfl, rfl, rfl⟩ rfl
  exact ⟨h.caps, ⟨hlen, hok⟩, h.streams, h.spaces, h.faultRegs, hno.tree, hno.ofTable, rfl⟩

/-- A codebook derived from the table (R140). -/
theorem State.Inv.setCodebook (h : s.Inv) {cb : List Bits} (hcb : tableCodes s.ft = some cb) :
    (s.setCodebook cb).Inv :=
  ⟨h.caps, h.table, h.streams, h.spaces, h.faultRegs, h.tree, h.treeOfTable, hcb⟩

theorem State.Inv.setBuf (h : s.Inv) {m : Memory} (hm : m.length ≤ s.bufCap) : { s with buf := m }.Inv :=
  ⟨h.caps, h.table, h.streams, ⟨hm, h.spaces.2⟩, h.faultRegs, h.tree, h.treeOfTable, h.codebook⟩

theorem State.Inv.setTxt (h : s.Inv) {txt : List Symbol} (hlen : txt.length ≤ s.txtCap)
    (hok : txt.all isScalar = true) : { s with txt := txt }.Inv :=
  ⟨h.caps, h.table, h.streams, ⟨h.spaces.1, hlen, hok⟩, h.faultRegs, h.tree, h.treeOfTable, h.codebook⟩

/-- A slot within the capacity (R39). -/
theorem State.Inv.bits_length_le (h : s.Inv) (k : Slot) : (s.bits k).length ≤ s.bsCap := by
  cases k with
  | bs0 => exact h.streams.1.1
  | bs1 => exact h.streams.2.1

/-- A cursor within its slot (R39). -/
theorem State.Inv.cur_le (h : s.Inv) (k : Slot) : s.cur k ≤ (s.bits k).length := by
  cases k with
  | bs0 => exact h.streams.1.2
  | bs1 => exact h.streams.2.2

/-- A write of a slot and its cursor, within the capacity and the slot (R39). -/
theorem State.Inv.setSlot (h : s.Inv) (k : Slot) {b : Bits} {n : Nat} (hb : b.length ≤ s.bsCap)
    (hn : n ≤ b.length) : ((s.setBits k b).setCur k n).Inv := by
  cases k with
  | bs0 =>
    exact ⟨h.caps, h.table, ⟨⟨hb, hn⟩, h.streams.2⟩, h.spaces, h.faultRegs, h.tree, h.treeOfTable, h.codebook⟩
  | bs1 =>
    exact ⟨h.caps, h.table, ⟨h.streams.1, hb, hn⟩, h.spaces, h.faultRegs, h.tree, h.treeOfTable, h.codebook⟩

@[simp] theorem State.setCur_self (s : State) (k : Slot) : s.setCur k (s.cur k) = s := by
  cases k <;> rfl

theorem State.Inv.setBits (h : s.Inv) (k : Slot) {b : Bits} (hb : b.length ≤ s.bsCap)
    (hn : s.cur k ≤ b.length) : (s.setBits k b).Inv := by
  have := h.setSlot k hb hn
  rwa [← State.cur_setBits s k k b, State.setCur_self] at this

theorem State.Inv.setCur (h : s.Inv) (k : Slot) {n : Nat} (hn : n ≤ (s.bits k).length) :
    (s.setCur k n).Inv := by
  have := h.setSlot k (h.bits_length_le k) hn
  rwa [State.setBits_self] at this

/-! ### The walk of the decoder (R32, R41) -/

/-- The root of a tree of two or more nodes is internal (R40). -/
theorem State.TreeComplete.root_isInternal (h : s.TreeComplete) (hn : 2 ≤ s.nd.length) :
    isInternal s.nd s.root = true := by
  obtain ⟨hpq, hroot, -, -, hforest⟩ := h
  have hlen := hforest.length_add
  refine isInternal_of_internalOk (hforest.internal ?_ ?_) <;> omega

/-- Where the walk may stand after a bit (R41, R151): where it stood in a tree of less than two nodes; at
the root or at another internal node otherwise. -/
def State.WalksTo (s : State) (w : Nat) : Prop :=
  (s.nd.length < 2 ∧ w = s.walk) ∨ (2 ≤ s.nd.length ∧ (w = s.root ∨ isInternal s.nd w = true))

theorem State.Inv.setWalk (h : s.Inv) (hv : s.tst = .valid) {w : Nat} (hw : s.WalksTo w) (d : Word32) :
    { s with walk := w, dpos := d }.Inv := by
  have hc := h.treeInv.complete hv
  have hroot := hc.root_isInternal
  obtain ⟨hpq, hr, hwalk, hwalk0, hforest⟩ := hc
  refine h.setTree rfl (State.TreeComplete.treeInv (⟨hpq, hr, fun hn => ?_, fun hn => ?_, hforest⟩) hv
    h.treeOfTable)
  · rcases hw with ⟨hlt, -⟩ | ⟨-, rfl | hi⟩
    · exact absurd hlt (not_lt.mpr hn)
    · exact hroot hn
    · exact hi
  · rcases hw with ⟨-, rfl⟩ | ⟨hge, -⟩
    · exact hwalk0 hn
    · exact absurd hge (not_le.mpr hn)

/-- The walk returns to the root (R150). -/
theorem State.Inv.walkToRoot (h : s.Inv) (hv : s.tst = .valid) : (walkToRoot s).Inv := by
  obtain ⟨-, hr, -, hwalk0, -⟩ := h.treeInv.complete hv
  refine h.setWalk hv ?_ 0#32
  rcases lt_or_ge s.nd.length 2 with hlt | hge
  · exact .inl ⟨hlt, by rw [hwalk0 hlt, hr]; omega⟩
  · exact .inr ⟨hge, .inl rfl⟩

/-- What a bit of the decoder does (R151): it moves the walk and counts the bit, and emits only symbols of
leaves; a fault leaves the state as it was. -/
theorem decodeBit_sat (v : Bool) (s : State) :
    (decodeBit v s).Sat
      (fun t e => ∃ w, t = consumeBit w s ∧ s.WalksTo w ∧ ∀ sym ∈ e, ∃ f, Node.leaf sym f ∈ s.nd)
      (· = s) := by
  unfold decodeBit
  split_ifs with h0 h1
  · exact ⟨s.walk, rfl, .inl ⟨by omega, rfl⟩, by simp⟩
  · split
    next sym f hf =>
      exact ⟨s.walk, rfl, .inl ⟨by omega, rfl⟩, by
        rintro _ ⟨⟩; exact ⟨f, List.mem_of_getElem? hf⟩⟩
    next => trivial
  · have hn : 2 ≤ s.nd.length := by omega
    unfold walkStep
    split
    next => trivial
    next => rfl
    next f l r _ =>
      dsimp only
      split
      next => trivial
      next sym g hc => exact ⟨s.root, rfl, .inr ⟨hn, .inl rfl⟩, by
        rintro _ ⟨⟩; exact ⟨g, List.mem_of_getElem? hc⟩⟩
      next f' l' r' hc =>
        exact ⟨_, rfl, .inr ⟨hn, .inr (isInternal_iff.mpr ⟨f', l', r', hc⟩)⟩, by simp⟩

/-- A symbol on a leaf is a scalar value (R38, R40). -/
theorem State.Inv.leaf_isScalar (h : s.Inv) (hv : s.tst = .valid) {sym : Symbol} {f : Nat}
    (hm : Node.leaf sym f ∈ s.nd) : isScalar sym = true := by
  obtain ⟨-, -, -, -, hforest⟩ := h.treeInv.complete hv
  obtain ⟨e, he, rfl⟩ := hforest.leaf_mem hm
  exact (h.table.2 e he).2

end Sys2Proof.Machine

/-! ## What every command keeps (10_state.md R38 to R41, R43)

One pass over the pseudocode of the commands serves two statements: the parameters and the words to come
stay whatever state a command starts from, and the invariant holds at its end if it held at its start. -/

namespace Sys2Proof.Machine

/-- The parameters of the block (R8, R43) and the words the host has still to present. -/
def State.params (s : State) : Nat × Nat × Nat × Nat × List Word :=
  (s.ftCap, s.bsCap, s.bufCap, s.txtCap, s.cmds)

@[simp] theorem State.params_setBits (s : State) (k : Slot) (b : Bits) :
    (s.setBits k b).params = s.params := by cases k <;> rfl

@[simp] theorem State.params_setCur (s : State) (k : Slot) (n : Nat) :
    (s.setCur k n).params = s.params := by cases k <;> rfl

theorem State.params_of_dropTree_eq {s t : State} (h : t.dropTree = s.dropTree) : t.params = s.params :=
  (congrArg State.params h : t.dropTree.params = s.dropTree.params)

/-- A state that a command started in `s₀` comes to: it has the parameters of `s₀`, and meets the invariant if
`s₀` does. -/
def Kept (s₀ t : State) : Prop := t.params = s₀.params ∧ (s₀.Inv → t.Inv)

theorem kept_refl (s : State) : Kept s s := ⟨rfl, id⟩

variable {s₀ s t : State}

/-- One write more. -/
theorem Kept.write (h : Kept s₀ s) (hp : t.params = s.params) (hi : s₀.Inv → s.Inv → t.Inv) :
    Kept s₀ t := ⟨hp.trans h.1, fun h0 => hi h0 (h.2 h0)⟩

theorem kept_endStable (s₀ : State) : EndStable (Kept s₀) where
  respond _ st v h := h.write rfl fun _ hi => hi.respond st v
  raise _ k pos h := h.write rfl fun _ hi => hi.raise k pos

/-- A write of the tree registers alone. -/
theorem Kept.setTree (h : Kept s₀ s) (hd : t.dropTree = s.dropTree) (ht : s₀.Inv → s.Inv → t.TreeInv) :
    Kept s₀ t :=
  h.write (State.params_of_dropTree_eq hd) fun h0 hi => hi.setTree hd (ht h0 hi)

theorem Kept.dropTree (h : Kept s₀ s) : Kept s₀ s.dropTree := h.write rfl fun _ hi => hi.dropTree

theorem Kept.clearTable (h : Kept s₀ s) : Kept s₀ (clearTable s) :=
  h.write rfl fun _ hi => hi.setTable (Nat.zero_le _) fun _ he => absurd he List.not_mem_nil

theorem Kept.setSlot (h : Kept s₀ s) (k : Slot) {b : Bits} {n : Nat}
    (hb : s.Inv → b.length ≤ s.bsCap) (hn : n ≤ b.length) : Kept s₀ ((s.setBits k b).setCur k n) :=
  h.write (by simp) fun _ hi => hi.setSlot k (hb hi) hn

theorem Kept.clearSlot (h : Kept s₀ s) (k : Slot) : Kept s₀ (clearSlot k s) :=
  h.setSlot k (fun _ => Nat.zero_le _) le_rfl

/-! ### Bit Streams (41_bit_stream.md) -/

theorem appendBit_kept (h : Kept s₀ s) (k : Slot) (v : Bool) : (appendBit k v s).Keeps (Kept s₀) := by
  rcases appendBit_cases k v s with ⟨-, e⟩ | ⟨hne, e⟩ <;> rw [e]
  · exact h
  · refine h.write (by simp) fun _ hi => hi.setBits k ?_ ?_
    · have := hi.bits_length_le k
      rw [State.len_eq] at hne
      simp; omega
    · have := hi.cur_le k
      simp; omega

theorem appendBits_kept (h : Kept s₀ s) (k : Slot) (bs : Bits) :
    (appendBits k bs s).Keeps (Kept s₀) := by
  induction bs generalizing s with
  | nil => exact h
  | cons v vs ih => exact (appendBit_kept h k v).bind fun _ _ ht => ih ht

theorem thenLen_kept {r : Run Unit} (h : r.Keeps (Kept s₀)) (k : Slot) :
    (thenLen k r).Keeps (Kept s₀) := h.bind fun _ _ ht => ht

theorem fromBytes_kept (h : Kept s₀ s) (k : Slot) (B : List Byte) (n : Nat) (pos : Option Nat) :
    (fromBytes k B n pos s).Keeps (Kept s₀) := by
  rcases fromBytes_cases k B n pos s with ⟨-, e⟩ | ⟨-, -, e⟩ | ⟨-, hn, e⟩ <;> rw [e]
  · exact h
  · exact h
  · exact h.setSlot k (fun _ => by simpa using hn) (Nat.zero_le _)

theorem appendOperand_kept (h : Kept s₀ s) (k : Slot) (v : Word32) :
    (appendOperand k v s).Keeps (Kept s₀) := by
  unfold appendOperand
  cases bitOperand v with
  | none => exact h
  | some b => exact thenLen_kept (appendBit_kept h k b) k

theorem getBit_kept (h : Kept s₀ s) (k : Slot) (idx : Word32) : (getBit k idx s).Keeps (Kept s₀) := by
  unfold getBit
  split <;> exact h

theorem toBytes_kept (h : Kept s₀ s) (k : Slot) : (toBytes k s).Keeps (Kept s₀) := by
  unfold toBytes
  split
  next => exact h
  next hc => exact h.write rfl fun _ hi => hi.setBuf (by simpa [State.bytes] using hc)

theorem nextBit_kept (h : Kept s₀ s) (k : Slot) : (nextBit k s).Keeps (Kept s₀) := by
  unfold nextBit
  split
  next b hb => exact h.write (by simp) fun _ hi => hi.setCur k (List.getElem?_eq_some_iff.mp hb).1
  next => exact h

/-! ### Buffer and text (46_buffers_system.md) -/

theorem pushByte_kept (h : Kept s₀ s) (byte : Byte) : (pushByte byte s).Keeps (Kept s₀) := by
  unfold pushByte
  split
  next => exact h
  next hc =>
    refine h.write rfl fun _ hi => hi.setBuf ?_
    have := hi.spaces.1
    simp; omega

theorem loadByte_kept (h : Kept s₀ s) (idx : Word32) : (loadByte idx s).Keeps (Kept s₀) := by
  unfold loadByte
  split <;> exact h

theorem storeByte_kept (h : Kept s₀ s) (byte : Byte) (idx : Word32) :
    (storeByte byte idx s).Keeps (Kept s₀) :=
  require_sat h fun _ => h.write rfl fun _ hi => hi.setBuf (by simpa [Memory.write] using hi.spaces.1)

theorem truncate_kept (h : Kept s₀ s) (v : Word32) : (truncate v s).Keeps (Kept s₀) :=
  require_sat h fun _ => h.write rfl fun _ hi => hi.setBuf ((List.length_take_le' _ _).trans hi.spaces.1)

/-- A pushed symbol touches `TXT`, not the tree (R181). -/
theorem pushSymbol_kept (h : Kept s₀ s) {sym : Symbol} (hc : s₀.Inv → isScalar sym = true) :
    (pushSymbol sym s).Sat (fun t _ => Kept s₀ t ∧ t.tst = s.tst) (Kept s₀) := by
  unfold pushSymbol
  split
  next => exact h
  next hcap =>
    refine ⟨h.write rfl fun h0 hi => ?_, rfl⟩
    obtain ⟨-, hlen, hall⟩ := hi.spaces
    exact hi.setTxt (by simp; omega) (by rw [List.all_append, hall]; simp [hc h0])

theorem loadSymbol_kept (h : Kept s₀ s) (idx : Word32) : (loadSymbol idx s).Keeps (Kept s₀) := by
  unfold loadSymbol
  split <;> exact h

/-! ### The Frequency Table (40_frequency_table.md) -/

/-- A new table of well-formed entries within the capacity. -/
theorem Kept.setTable (h : Kept s₀ s) {ft : List Entry} (hlen : s.Inv → ft.length ≤ s.ftCap)
    (hok : s₀.Inv → s.Inv → ∀ e ∈ ft, e.cnt ≠ 0#32 ∧ isScalar e.sym = true) : Kept s₀ (s.setTable ft) :=
  h.write rfl fun h0 hi => hi.setTable (hlen hi) (hok h0 hi)

theorem Kept.appendEntry (h : Kept s₀ s) {sym : Symbol} {cnt : Word32} (hcap : s.ft.length ≠ s.ftCap)
    (hsym : s₀.Inv → isScalar sym = true) (hcnt : cnt ≠ 0#32) :
    Kept s₀ (s.setTable (s.ft ++ [⟨sym, cnt⟩])) := by
  refine h.setTable (fun hi => ?_) fun h0 hi e he => ?_
  · have := hi.table.1
    simp; omega
  · rcases List.mem_append.mp he with he | he
    · exact hi.table.2 e he
    · rw [List.mem_singleton.mp he]
      exact ⟨hcnt, hsym h0⟩

theorem putEntry_kept (h : Kept s₀ s) {sym : Symbol} {cnt : Word32} (hsym : s₀.Inv → isScalar sym = true)
    (hcnt : cnt ≠ 0#32) : (putEntry sym cnt s).Keeps (Kept s₀) := by
  rcases putEntry_cases sym cnt s with ⟨-, e⟩ | ⟨hcap, e⟩ <;> rw [e]
  · exact h
  · exact h.appendEntry hcap hsym hcnt

theorem countSymbol_kept (h : Kept s₀ s) {sym : Symbol} (hsym : s₀.Inv → isScalar sym = true) :
    (countSymbol sym s).Keeps (Kept s₀) := by
  rcases countSymbol_cases sym s with ⟨i, e, -, -, hmax, he⟩ | ⟨-, hcap, he⟩ | he <;> rw [he]
  · refine h.setTable (fun hi => by simpa using hi.table.1) fun h0 hi x hx => ?_
    rcases List.mem_or_eq_of_mem_set hx with hx | rfl
    · exact hi.table.2 x hx
    · exact ⟨by bv_omega, hsym h0⟩
  · exact h.appendEntry hcap hsym (by decide)
  · exact h

theorem countText_kept (h : Kept s₀ s) {text : List Symbol} (ht : s₀.Inv → text.all isScalar = true) :
    (countText text s).Keeps (Kept s₀) := by
  induction text generalizing s with
  | nil => exact h
  | cons c cs ih =>
    have hc : s₀.Inv → isScalar c = true ∧ cs.all isScalar = true := fun h0 => by simpa using ht h0
    exact (countSymbol_kept h fun h0 => (hc h0).1).bind fun _ _ hk => ih hk fun h0 => (hc h0).2

theorem readEntry_kept (h : Kept s₀ s) (idx : Word32) (f : Entry → Word) :
    (readEntry idx f s).Keeps (Kept s₀) := by
  unfold readEntry
  split <;> exact h

/-! ### The container (45_container.md) -/

/-- The image has the size that CZ.WR checks (R160, R163). -/
theorem fileImage_length (ft : List Entry) (bits : Bits) : (fileImage ft bits).length = fileSize ft bits := by
  have he : ∀ e : Entry, (entryBytes e).length = 2 + (utf8 e.sym).length + 4 := fun e => by
    simp [entryBytes, Nat.add_assoc]
  simp only [fileImage, fileSize, List.length_append, List.length_flatMap, beBytes_length, pack_length, he]

theorem writeFile_kept (h : Kept s₀ s) (k : Slot) : (writeFile k s).Keeps (Kept s₀) := by
  unfold writeFile
  dsimp only
  split
  next => exact h
  next hc => exact h.write rfl fun _ hi => hi.setBuf (by rw [fileImage_length]; omega)

theorem foldl_bigEndian_lt (l : List Byte) (acc : Nat) :
    l.foldl (fun acc b => acc * 256 + b.toNat) acc < (acc + 1) * 256 ^ l.length := by
  induction l generalizing acc with
  | nil => simp
  | cons b l ih =>
    have hb := b.isLt
    calc _ < (acc * 256 + b.toNat + 1) * 256 ^ l.length := ih _
      _ ≤ ((acc + 1) * 256) * 256 ^ l.length := Nat.mul_le_mul_right _ (by omega)
      _ = (acc + 1) * 256 ^ (b :: l).length := by rw [List.length_cons, pow_succ']; ring

/-- A big-endian number of `n` bytes is below `256 ^ n` (R53). -/
theorem memRead_lt (m : Memory) (a n : Nat) : memRead m a n < 256 ^ n :=
  calc memRead m a n < (0 + 1) * 256 ^ ((m.drop a).take n).length := foldl_bigEndian_lt _ 0
    _ = 256 ^ ((m.drop a).take n).length := by rw [Nat.zero_add, Nat.one_mul]
    _ ≤ 256 ^ n := Nat.pow_le_pow_right (by decide) (List.length_take_le _ _)

/-- A 4-byte number fits a count (R160). -/
theorem ofNat_memRead_ne_zero {m : Memory} {a : Nat} (h : memRead m a 4 ≠ 0) :
    BitVec.ofNat 32 (memRead m a 4) ≠ 0#32 := by
  intro h0
  have hlt := memRead_lt m a 4
  have hz := congrArg BitVec.toNat h0
  simp only [BitVec.toNat_ofNat] at hz
  omega

theorem need_kept (h : Kept s₀ s) (n p : Nat) : (need n p s).Keeps (Kept s₀) := by
  rcases need_cases n p s with ⟨-, e⟩ | ⟨-, e⟩ <;> rw [e] <;> exact h

theorem readFileEntry_kept (h : Kept s₀ s) (p : Nat) : (readFileEntry p s).Keeps (Kept s₀) := by
  refine (need_kept h 2 p).bind fun s _ h => ?_
  dsimp only
  split
  next => exact h
  next =>
    refine (need_kept h _ _).bind fun s _ h => ?_
    split
    next => exact h
    next sym hsym =>
      refine (need_kept h _ _).bind fun s _ h => ?_
      split
      next => exact h
      next hf =>
        exact (putEntry_kept h (fun _ => (utf8Decode_eq_some hsym).1)
          (ofNat_memRead_ne_zero hf)).bind fun _ _ ht => ht

theorem readFileEntries_kept (h : Kept s₀ s) (n p : Nat) : (readFileEntries n p s).Keeps (Kept s₀) := by
  induction n generalizing s p with
  | zero => exact h
  | succ n ih => exact (readFileEntry_kept h p).bind fun _ q ht => ih ht q

theorem readFile_kept (h : Kept s₀ s) (k : Slot) : (readFile k s).Keeps (Kept s₀) :=
  (need_kept h 2 0).bind fun _ _ h =>
    (readFileEntries_kept h.clearTable _ 2).bind fun _ p h =>
      (need_kept h 4 p).bind fun _ _ h => (fromBytes_kept h k _ _ _).bind fun _ _ h => h

/-! ### The tree builder (42_tree_builder.md) -/

theorem mergeStep_kept (h : Kept s₀ s) (hb : s.tst = .building) : (mergeStep s).Keeps (Kept s₀) := by
  cases hm : mergeStep s with
  | done t v => exact h.setTree (mergeStep_dropTree hm) fun _ hi => mergeStep_treeInv hi.treeInv hb hm
  | raised t k p => rcases mergeStep_cases s with ⟨-, e⟩ | ⟨_, _, _, _, -, -, e⟩ <;> simp [e] at hm
  | stuck e => trivial

/-- HT.BLD ends with a complete tree (R124). -/
theorem buildTree_kept (h : Kept s₀ s) :
    (buildTree s).Sat (fun t _ => Kept s₀ t ∧ t.tst = .valid) (Kept s₀) := by
  obtain ⟨t, ht, hv, hi, hd⟩ := buildTree_done s
  rw [ht]
  exact ⟨h.setTree hd fun _ _ => hi, hv⟩

theorem readNode_kept (h : Kept s₀ s) (idx : Word32) (f : Node → Option Word) :
    (readNode idx f s).Keeps (Kept s₀) := by
  unfold readNode
  split
  next => exact h
  next => split <;> exact h

/-! ### The encoder (43_encoder.md) -/

theorem deriveCodebook_kept (h : Kept s₀ s) (hv : s.tst = .valid) :
    (deriveCodebook s).Keeps (Kept s₀) := by
  unfold deriveCodebook
  cases hcb : codesOf s with
  | error e => trivial
  | ok cb => exact h.write rfl fun _ hi => hi.setCodebook (tableCodes_of_valid hi.treeInv hv hcb)

theorem encodeSymbol_kept (h : Kept s₀ s) (k : Slot) (sym : Symbol) (pos : Option Nat) :
    (encodeSymbol k sym pos s).Keeps (Kept s₀) := by
  unfold encodeSymbol
  split
  next => exact h
  next =>
    split
    next => trivial
    next c _ => exact appendBits_kept h k c

theorem encodeText_kept (h : Kept s₀ s) (k : Slot) (text : List Symbol) (i : Nat) :
    (encodeText k text i s).Keeps (Kept s₀) := by
  induction text generalizing s i with
  | nil => exact h
  | cons c cs ih => exact (encodeSymbol_kept h k c _).bind fun _ _ ht => ih ht _

theorem encodeRun_kept (k : Slot) (s : State) : (encodeRun k s).Keeps (Kept s) :=
  (countText_kept (kept_refl s).clearTable fun h0 => h0.spaces.2.2).bind fun _ _ h =>
    (buildTree_kept h).bind fun _ _ ⟨h, hv⟩ =>
      (deriveCodebook_kept h hv).bind fun _ _ h =>
        (encodeText_kept (h.clearSlot k) k s.txt 0).bind fun _ _ h => h.dropTree

/-! ### The decoder (44_decoder.md) -/

/-- A bit of the decoder keeps the complete tree and emits scalar values (R151). -/
theorem decodeBit_kept (h : Kept s₀ s) (hv : s.tst = .valid) (v : Bool) :
    (decodeBit v s).Sat
      (fun t e => (Kept s₀ t ∧ t.tst = .valid) ∧ (s₀.Inv → ∀ sym ∈ e, isScalar sym = true)) (Kept s₀) := by
  refine (decodeBit_sat v s).mono (fun t e ht => ?_) fun t ht => ?_
  · obtain ⟨w, rfl, hw, hleaf⟩ := ht
    refine ⟨⟨h.write rfl fun _ hi => hi.setWalk hv hw _, hv⟩, fun h0 sym hsym => ?_⟩
    obtain ⟨f, hf⟩ := hleaf sym hsym
    exact (h.2 h0).leaf_isScalar hv hf
  · exact ht ▸ h

theorem decodeOperand_kept (h : Kept s₀ s) (hv : s.tst = .valid) (v : Word32) :
    (decodeOperand v s).Keeps (Kept s₀) := by
  unfold decodeOperand
  cases bitOperand v with
  | none => exact h
  | some b => exact (decodeBit_kept h hv b).bind fun _ _ ⟨⟨h, _⟩, _⟩ => h

theorem checkEnd_kept (h : Kept s₀ s) : (checkEnd s).Keeps (Kept s₀) := by
  unfold checkEnd
  split <;> exact h

theorem emit_kept (h : Kept s₀ s) (hv : s.tst = .valid) {e : Option Symbol}
    (he : s₀.Inv → ∀ sym ∈ e, isScalar sym = true) :
    (emit e s).Sat (fun t _ => Kept s₀ t ∧ t.tst = .valid) (Kept s₀) := by
  cases e with
  | none => exact ⟨h, hv⟩
  | some sym =>
    exact (pushSymbol_kept h fun h0 => he h0 sym rfl).bind fun _ _ ⟨h, ht⟩ => ⟨h, ht.trans hv⟩

theorem decodeBits_kept (h : Kept s₀ s) (hv : s.tst = .valid) (bs : Bits) :
    (decodeBits bs s).Keeps (Kept s₀) := by
  induction bs generalizing s with
  | nil => exact h
  | cons v vs ih =>
    exact (decodeBit_kept h hv v).bind fun _ _ ⟨⟨h, hv⟩, he⟩ =>
      (emit_kept h hv he).bind fun _ _ ⟨h, hv⟩ => ih h hv

theorem Kept.clearTxt (h : Kept s₀ s) : Kept s₀ { s with txt := [] } :=
  h.write rfl fun _ hi => hi.setTxt (Nat.zero_le _) rfl

theorem Kept.clearBuf (h : Kept s₀ s) : Kept s₀ { s with buf := [] } :=
  h.write rfl fun _ hi => hi.setBuf (Nat.zero_le _)

theorem decodeRun_kept (h : Kept s₀ s) (k : Slot) : (decodeRun k s).Keeps (Kept s₀) :=
  (buildTree_kept h).bind fun _ _ ⟨h, hv⟩ =>
    (decodeBits_kept h.clearTxt hv _).bind fun _ _ h => (checkEnd_kept h).bind fun _ _ h => h.dropTree

/-! ### Every command -/

theorem powerOn_kept (s : State) : Kept s s.powerOn := ⟨rfl, fun hi => State.powerOn_inv hi.caps⟩

theorem pseudocode_kept (i : Instr) (hw : i.wellFormed = true) (s : State) :
    (pseudocode i s).Keeps (Kept s) := by
  have h := kept_refl s
  cases i with
  | sysRst => exact powerOn_kept s
  | sysRd r =>
    unfold pseudocode
    dsimp only
    split <;> exact h
  | ftClr => exact h.clearTable
  | ftCnt sym => exact countSymbol_kept h fun _ => hw
  | ftPut sym v =>
    obtain ⟨hsym, hv⟩ : isScalar sym = true ∧ v ≠ 0#32 := by
      simpa [Instr.wellFormed, freqLegal] using hw
    exact putEntry_kept h (fun _ => hsym) hv
  | ftSym idx => exact readEntry_kept h idx _
  | ftFrq idx => exact readEntry_kept h idx _
  | bsClr k => exact h.clearSlot k
  | bsApp k v => exact appendOperand_kept h k v
  | bsExt k j => exact thenLen_kept (appendBits_kept h k _) k
  | bsGet k idx => exact getBit_kept h k idx
  | bsTob k => exact toBytes_kept h k
  | bsFrb k v => exact thenLen_kept (fromBytes_kept h k _ _ _) k
  | bsFrba k => exact thenLen_kept (fromBytes_kept h k _ _ _) k
  | bsEq k j => exact h
  | bsHash k => exact h
  | bsRwd k => exact h.write (by simp) fun _ hi => hi.setCur k (Nat.zero_le _)
  | bsNxt k => exact nextBit_kept h k
  | bufClr => exact h.clearBuf
  | bufPush byte => exact pushByte_kept h byte
  | bufLd idx => exact loadByte_kept h idx
  | bufSt byte idx => exact storeByte_kept h byte idx
  | bufTrn v => exact truncate_kept h v
  | txtClr => exact h.clearTxt
  | txtPush sym => exact (pushSymbol_kept h fun _ => hw).mono (fun _ _ ht => ht.1) fun _ ht => ht
  | txtLd idx => exact loadSymbol_kept h idx
  | htIni => exact h.setTree rfl fun _ _ => initTree_treeInv s
  | htMrg => exact require_sat h fun hb => mergeStep_kept h (isBuilding_iff.mp hb)
  | htBld => exact (buildTree_kept h).bind fun _ _ ht => ht.1
  | htDis => exact h.dropTree
  | htNdk idx => exact readNode_kept h idx _
  | htNdf idx => exact readNode_kept h idx fun nd => some (num nd.freq)
  | htNdl idx => exact readNode_kept h idx _
  | htNdr idx => exact readNode_kept h idx _
  | cbDrv =>
    exact require_sat h fun hv => (deriveCodebook_kept h (hasTree_iff.mp hv)).bind fun _ _ ht => ht
  | encSym k sym => exact require_sat h fun _ => thenLen_kept (encodeSymbol_kept h k sym none) k
  | encRun k => exact encodeRun_kept k s
  | decRst =>
    exact require_sat h fun hv => h.write rfl fun _ hi => hi.walkToRoot (hasTree_iff.mp hv)
  | decBit v => exact require_sat h fun hv => decodeOperand_kept h (hasTree_iff.mp hv) v
  | decEnd => exact require_sat h fun _ => (checkEnd_kept h).bind fun _ _ ht => ht
  | decRun k => exact decodeRun_kept h k
  | czWr k => exact writeFile_kept h k
  | czRd k => exact readFile_kept h k

theorem execWord_kept {w : Word} (h : execWord w s = .next t) : Kept s t :=
  execWord_keeps (kept_endStable s) (kept_refl s) (powerOn_kept s)
    (fun i hw => pseudocode_kept i hw s) h

/-- A step takes the first word, if there is one, and keeps the parameters and the invariant. -/
theorem step_kept (h : step s = .next t) : Kept { s with cmds := s.cmds.tail } t := by
  unfold step at h
  split at h
  next hnil =>
    cases h
    exact ⟨by simp [State.params, hnil], fun hi => hi.setCmds s.cmds⟩
  next w rest hcons =>
    rw [hcons]
    exact execWord_kept h

/-! ## Status registers (R35) -/

/-- What the tree registers can be (R35): node indices below `2 FT_CAP - 1`, at most `FT_CAP` trees. -/
theorem State.TreeInv.ranges (h : s.TreeInv) (hcap : 1 ≤ s.ftCap) (hft : s.ft.length ≤ s.ftCap) :
    s.nd.length ≤ 2 * s.ftCap - 1 ∧ s.root ≤ s.nd.length - 1 ∧ s.pq.length ≤ s.ftCap ∧
      s.nextSeq ≤ 2 * s.ftCap - 1 ∧ s.walk ≤ s.nd.length - 1 := by
  cases ht : s.tst with
  | none =>
    obtain ⟨hnd, hpq, hseq, hroot, hwalk, -⟩ := h.tree.1 ht
    simp [hnd, hpq, hseq, hroot, hwalk]
  | building =>
    obtain ⟨hpq, hroot, hwalk, -, hforest⟩ := h.underWay ht
    have := hforest.length_le
    have := hforest.length_add
    have := hforest.nextSeq_eq
    omega
  | valid =>
    obtain ⟨hpq, hroot, hwalk, hwalk0, hforest⟩ := h.complete ht
    have := hforest.length_add
    have := hforest.nextSeq_eq
    have hw : s.walk ≤ s.nd.length - 1 := by
      rcases lt_or_ge s.nd.length 2 with hlt | hge
      · simp [hwalk0 hlt]
      · exact Nat.le_sub_one_of_lt (lt_length_of_isInternal (hwalk hge))
    omega

theorem faultCode_lt (f : Option FaultKind) : faultCode f < 2 ^ 3 := by
  cases f with
  | none => decide
  | some k => cases k <;> decide

theorem TreeState.code_le (t : TreeState) : t.code ≤ 2 := by cases t <;> decide

theorem bitNumber_lt (b : Bool) : bitNumber b < 2 ^ 1 := by cases b <;> decide

/-- Every register against the width of its row (R35). -/
theorem State.Inv.statusRegisters_fit (h : s.Inv) :
    List.Forall₂ (fun n w => n < 2 ^ w) (statusRegisters s) statusWidths := by
  obtain ⟨⟨hft1, hft2⟩, ⟨-, hbs⟩, ⟨-, hbuf⟩, -, htxt⟩ := h.caps
  obtain ⟨hnd, hroot, hpq, hseq, hwalk⟩ := h.treeInv.ranges hft1 h.table.1
  obtain ⟨⟨hb0, hc0⟩, hb1, hc1⟩ := h.streams
  obtain ⟨hbuflen, htxtlen, -⟩ := h.spaces
  have hftlen := h.table.1
  have htst := TreeState.code_le s.tst
  simp only [Config.ftCapMax, Config.lenCapMax] at hft2 hbs hbuf htxt
  simp only [statusRegisters, statusWidths, List.forall₂_cons, List.forall₂_nil_right_iff]
  refine ⟨faultCode_lt _, s.fpos.isLt, bitNumber_lt _, ?_, ?_, ?_, ?_, ?_, ?_, ?_, ?_, ?_, ?_,
    bitNumber_lt _, ?_, ?_, ?_, s.dpos.isLt, ?_, ?_, ?_, ?_, trivial⟩ <;> omega

/-! ## Reset (R42, R210) -/

theorem reset_eq_powerOn : State.reset = State.reset.powerOn := rfl

theorem State.bytes_eq_nil {k : Slot} (h : s.bits k = []) : s.bytes k = [] := by
  rw [State.bytes, h]
  rfl

end Sys2Proof.Machine

namespace Sys2Proof.Machine

/-! ## The obligations of 10_state.md -/

/-- Settles O16: one pass over the pseudocode of the commands, with the invariant of the tree registers
(`State.TreeInv`) as its key part. -/
theorem stepKeepsInv : Obligations.StepKeepsInv :=
  fun s _ hi h => (step_kept h).2 (hi.setCmds s.cmds.tail)

/-- Settles O14, by the same pass. -/
theorem parametersNeverChange : Obligations.ParametersNeverChange := by
  intro s t h
  simpa [State.params] using (step_kept h).1

/-- Settles O18, from the ranges of the tree registers and the capacities. -/
theorem registersWithinWidth : Obligations.RegistersWithinWidth := by
  intro s h
  obtain ⟨hnd, hroot, hpq, hseq, hwalk⟩ := h.treeInv.ranges h.caps.1.1 h.table.1
  obtain ⟨⟨hb0, hc0⟩, hb1, hc1⟩ := h.streams
  obtain ⟨hbuf, htxt, -⟩ := h.spaces
  refine ⟨fun r n w hn hw => ?_, h.table.1, hb0, hb1, hc0, hc1, hbuf, htxt, hnd, hroot,
    TreeState.code_le _, hpq, hseq, hwalk⟩
  obtain ⟨hr, rfl⟩ := List.getElem?_eq_some_iff.mp hn
  obtain ⟨hr', rfl⟩ := List.getElem?_eq_some_iff.mp hw
  exact h.statusRegisters_fit.get hr hr'

/-- Settles O10: SYS.RST leads to `State.powerOn`, which is the reset state but for the parameters. -/
theorem resetValues : Obligations.ResetValues := by
  have hnext : ∀ s t : State, exec .sysRst s = .next t → t = s.powerOn.respond .ok 0#64 := by
    intro s t h
    rw [exec_sysRst] at h
    cases h
    rfl
  refine ⟨?_, ?_⟩
  · rintro t (rfl | ⟨s, h⟩)
    on_goal 2 => rw [hnext s t h]
    all_goals exact ⟨rfl, rfl, rfl, State.bytes_eq_nil rfl, State.bytes_eq_nil rfl, rfl, rfl, rfl, rfl,
      rfl, rfl, rfl, rfl, rfl, rfl, rfl, rfl, rfl, rfl, rfl, rfl⟩
  · intro s t h
    rw [hnext s t h]
    exact ⟨rfl, rfl, rfl, rfl⟩

/-- Settles O15: the default capacities are legal, and reset needs no more. -/
theorem resetMeetsInv : Obligations.ResetMeetsInv := by
  rw [Obligations.ResetMeetsInv, reset_eq_powerOn]
  exact State.powerOn_inv (by decide)

end Sys2Proof.Machine

namespace Sys2Proof.Machine

/-! ## What an operation writes (20_memory.md R50)

For each piece of pseudocode: a property that survives the writes it makes is kept, however it ends. The
hypotheses name the writes, so that each lemma says what its operation leaves unchanged. -/

section Writes

variable {P : State → Prop} {s : State}

/-- A run that ends where it began keeps whatever held there. -/
theorem Run.Sat.keeps_of_eq {α : Type} {r : Run α} (hr : r.Keeps (· = s)) (h : P s) : r.Keeps P :=
  hr.mono (fun _ _ ht => ht ▸ h) fun _ ht => ht ▸ h

/-! ### Pseudocode that writes nothing -/

theorem getBit_reads (k : Slot) (idx : Word32) (s : State) : (getBit k idx s).Keeps (· = s) := by
  unfold getBit
  split <;> rfl

theorem loadByte_reads (idx : Word32) (s : State) : (loadByte idx s).Keeps (· = s) := by
  unfold loadByte
  split <;> rfl

theorem loadSymbol_reads (idx : Word32) (s : State) : (loadSymbol idx s).Keeps (· = s) := by
  unfold loadSymbol
  split <;> rfl

theorem readEntry_reads (idx : Word32) (f : Entry → Word) (s : State) :
    (readEntry idx f s).Keeps (· = s) := by
  unfold readEntry
  split <;> rfl

theorem readNode_reads (idx : Word32) (f : Node → Option Word) (s : State) :
    (readNode idx f s).Keeps (· = s) := by
  unfold readNode
  split
  next => rfl
  next => split <;> rfl

theorem need_reads (n p : Nat) (s : State) : (need n p s).Keeps (· = s) := by
  rcases need_cases n p s with ⟨-, e⟩ | ⟨-, e⟩ <;> rw [e] <;> rfl

theorem checkEnd_reads (s : State) : (checkEnd s).Keeps (· = s) := by
  unfold checkEnd
  split <;> rfl

/-! ### Writers of `BUF` and `TXT` -/

section

variable (hbuf : ∀ s m, P s → P { s with buf := m }) (h : P s)
include hbuf h

theorem toBytes_keeps (k : Slot) : (toBytes k s).Keeps P := by
  unfold toBytes
  split
  next => exact h
  next => exact hbuf _ _ h

theorem pushByte_keeps (byte : Byte) : (pushByte byte s).Keeps P := by
  unfold pushByte
  split
  next => exact h
  next => exact hbuf _ _ h

theorem storeByte_keeps (byte : Byte) (idx : Word32) : (storeByte byte idx s).Keeps P :=
  require_sat h fun _ => hbuf _ _ h

theorem truncate_keeps (v : Word32) : (truncate v s).Keeps P := require_sat h fun _ => hbuf _ _ h

theorem writeFile_keeps (k : Slot) : (writeFile k s).Keeps P := by
  unfold writeFile
  dsimp only
  split
  next => exact h
  next => exact hbuf _ _ h

end

theorem pushSymbol_keeps (htxt : ∀ s l, P s → P { s with txt := l }) (h : P s) (sym : Symbol) :
    (pushSymbol sym s).Keeps P := by
  unfold pushSymbol
  split
  next => exact h
  next => exact htxt _ _ h

theorem emit_keeps (htxt : ∀ s l, P s → P { s with txt := l }) (h : P s) (e : Option Symbol) :
    (emit e s).Keeps P := by
  cases e with
  | none => exact h
  | some sym => exact (pushSymbol_keeps htxt h sym).bind fun _ _ ht => ht

/-! ### Writers of a slot -/

theorem thenLen_keeps {r : Run Unit} (hr : r.Keeps P) (k : Slot) : (thenLen k r).Keeps P :=
  hr.bind fun _ _ ht => ht

theorem nextBit_keeps {k : Slot} (hcur : ∀ s n, P s → P (s.setCur k n)) (h : P s) :
    (nextBit k s).Keeps P := by
  unfold nextBit
  split
  next => exact hcur _ _ h
  next => exact h

section

variable {k : Slot} (hbits : ∀ s b, P s → P (s.setBits k b))
include hbits

theorem appendBit_keeps (h : P s) (v : Bool) : (appendBit k v s).Keeps P := by
  rcases appendBit_cases k v s with ⟨-, e⟩ | ⟨-, e⟩ <;> rw [e]
  · exact h
  · exact hbits _ _ h

theorem appendBits_keeps (h : P s) (bs : Bits) : (appendBits k bs s).Keeps P := by
  induction bs generalizing s with
  | nil => exact h
  | cons v vs ih => exact (appendBit_keeps hbits h v).bind fun _ _ ht => ih ht

theorem appendOperand_keeps (h : P s) (v : Word32) : (appendOperand k v s).Keeps P := by
  unfold appendOperand
  cases bitOperand v with
  | none => exact h
  | some b => exact thenLen_keeps (appendBit_keeps hbits h b) k

theorem encodeSymbol_keeps (h : P s) (sym : Symbol) (pos : Option Nat) :
    (encodeSymbol k sym pos s).Keeps P := by
  unfold encodeSymbol
  split
  next => exact h
  next =>
    split
    next => trivial
    next c _ => exact appendBits_keeps hbits h c

theorem encodeText_keeps (h : P s) (text : List Symbol) (i : Nat) : (encodeText k text i s).Keeps P := by
  induction text generalizing s i with
  | nil => exact h
  | cons c cs ih => exact (encodeSymbol_keeps hbits h c _).bind fun _ _ ht => ih ht _

variable (hcur : ∀ s n, P s → P (s.setCur k n))
include hcur

theorem fromBytes_keeps (h : P s) (B : List Byte) (n : Nat) (pos : Option Nat) :
    (fromBytes k B n pos s).Keeps P := by
  rcases fromBytes_cases k B n pos s with ⟨-, e⟩ | ⟨-, -, e⟩ | ⟨-, -, e⟩ <;> rw [e]
  · exact h
  · exact h
  · exact hcur _ _ (hbits _ _ h)

end

/-! ### Writers of the table -/

section

variable (htable : ∀ s ft, P s → P (s.setTable ft))
include htable

theorem putEntry_keeps (h : P s) (sym : Symbol) (cnt : Word32) : (putEntry sym cnt s).Keeps P := by
  rcases putEntry_cases sym cnt s with ⟨-, e⟩ | ⟨-, e⟩ <;> rw [e]
  · exact h
  · exact htable _ _ h

theorem countSymbol_keeps (h : P s) (sym : Symbol) : (countSymbol sym s).Keeps P := by
  rcases countSymbol_cases sym s with ⟨_, _, -, -, -, e⟩ | ⟨-, -, e⟩ | e <;> rw [e]
  · exact htable _ _ h
  · exact htable _ _ h
  · exact h

theorem countText_keeps (h : P s) (text : List Symbol) : (countText text s).Keeps P := by
  induction text generalizing s with
  | nil => exact h
  | cons c cs ih => exact (countSymbol_keeps htable h c).bind fun _ _ ht => ih ht

theorem readFileEntry_keeps (h : P s) (p : Nat) : (readFileEntry p s).Keeps P := by
  refine ((need_reads 2 p s).keeps_of_eq h).bind fun s _ h => ?_
  dsimp only
  split
  next => exact h
  next =>
    refine ((need_reads _ _ s).keeps_of_eq h).bind fun s _ h => ?_
    split
    next => exact h
    next sym _ =>
      refine ((need_reads _ _ s).keeps_of_eq h).bind fun s _ h => ?_
      split
      next => exact h
      next => exact (putEntry_keeps htable h sym _).bind fun _ _ ht => ht

theorem readFileEntries_keeps (h : P s) (n p : Nat) : (readFileEntries n p s).Keeps P := by
  induction n generalizing s p with
  | zero => exact h
  | succ n ih => exact (readFileEntry_keeps htable h p).bind fun _ q ht => ih ht q

theorem readFile_keeps {k : Slot} (hbits : ∀ s b, P s → P (s.setBits k b))
    (hcur : ∀ s n, P s → P (s.setCur k n)) (h : P s) : (readFile k s).Keeps P :=
  ((need_reads 2 0 s).keeps_of_eq h).bind fun _ _ h =>
    (readFileEntries_keeps htable (htable _ [] h) _ 2).bind fun s p h =>
      ((need_reads 4 p s).keeps_of_eq h).bind fun _ _ h =>
        (fromBytes_keeps hbits hcur h _ _ _).bind fun _ _ h => h

end

/-! ### Writers of the tree, the decoder registers and the codebook -/

theorem deriveCodebook_keeps (hcb : ∀ s cb, P s → P (s.setCodebook cb)) (h : P s) :
    (deriveCodebook s).Keeps P := by
  unfold deriveCodebook
  cases codesOf s with
  | error e => trivial
  | ok cb => exact hcb _ _ h

section

variable (hwalk : ∀ s w d, P s → P { s with walk := w, dpos := d })
include hwalk

theorem decodeBit_keeps (h : P s) (v : Bool) : (decodeBit v s).Keeps P :=
  (decodeBit_sat v s).mono (fun _ _ ⟨_, ht, _⟩ => ht ▸ hwalk _ _ _ h) fun _ ht => ht ▸ h

theorem decodeOperand_keeps (h : P s) (v : Word32) : (decodeOperand v s).Keeps P := by
  unfold decodeOperand
  cases bitOperand v with
  | none => exact h
  | some b => exact (decodeBit_keeps hwalk h b).bind fun _ _ ht => ht

theorem decodeBits_keeps (htxt : ∀ s l, P s → P { s with txt := l }) (h : P s) (bs : Bits) :
    (decodeBits bs s).Keeps P := by
  induction bs generalizing s with
  | nil => exact h
  | cons v vs ih =>
    exact (decodeBit_keeps hwalk h v).bind fun _ e h => (emit_keeps htxt h e).bind fun _ _ h => ih h

end

section

variable (htree : ∀ s t, t.dropTree = s.dropTree → P s → P t)
include htree

theorem mergeStep_keeps (h : P s) : (mergeStep s).Keeps P := by
  rcases mergeStep_cases s with ⟨-, e⟩ | ⟨_, _, _, _, -, -, e⟩
  · rw [e]; trivial
  · rw [e]; exact htree _ _ (mergeStep_dropTree e) h

theorem buildTree_keeps (h : P s) : (buildTree s).Keeps P := by
  obtain ⟨t, ht, -, -, hd⟩ := buildTree_done s
  rw [ht]
  exact htree _ _ hd h

theorem decodeRun_keeps (htxt : ∀ s l, P s → P { s with txt := l }) (h : P s) (k : Slot) :
    (decodeRun k s).Keeps P :=
  (buildTree_keeps htree h).bind fun _ _ h =>
    (decodeBits_keeps (fun s w d => htree s { s with walk := w, dpos := d } rfl) htxt (htxt _ [] h)
        _).bind fun s _ h =>
      ((checkEnd_reads s).keeps_of_eq h).bind fun s _ h => htree s _ rfl h

theorem encodeRun_keeps {k : Slot} (htable : ∀ s ft, P s → P (s.setTable ft))
    (hcb : ∀ s cb, P s → P (s.setCodebook cb)) (hbits : ∀ s b, P s → P (s.setBits k b))
    (hcur : ∀ s n, P s → P (s.setCur k n)) (h : P s) : (encodeRun k s).Keeps P :=
  (countText_keeps htable (htable _ [] h) s.txt).bind fun _ _ h =>
    (buildTree_keeps htree h).bind fun _ _ h =>
      (deriveCodebook_keeps hcb h).bind fun _ _ h =>
        (encodeText_keeps hbits (hcur _ 0 (hbits _ [] h)) s.txt 0).bind fun s _ h => htree s _ rfl h

end

end Writes

/-! ## How a command answers outside and inside the fault state (R199, R200) -/

/-- Outside the fault state a command is its operand check and its pseudocode (R199). -/
theorem exec_of_ok {i : Instr} {s : State} (hf : s.fault = none) (hrst : i ≠ .sysRst) :
    exec i s = (require i.wellFormed s (pseudocode i s)).finish := by
  by_cases hrd : ∃ r, i = .sysRd r
  · obtain ⟨r, rfl⟩ := hrd
    show execSysRd r s = (require (regLegal r) s (pseudocode (.sysRd r) s)).finish
    rw [execSysRd, pseudocode]
    cases hv : readRegister s r with
    | some v =>
      have hle : r.toNat ≤ 21 := by
        by_contra hgt
        rw [readRegister_eq_none (not_le.mp hgt)] at hv
        cases hv
      rw [regLegal, decide_eq_true hle]
      rfl
    | none => cases regLegal r <;> exact command_illegal hf
  · rw [exec_eq_command i s hrst (not_exists.mp hrd), command, hf]

/-- In the fault state a command but SYS.RST gives its response and changes nothing (R200). -/
theorem exec_of_fault {i : Instr} {s : State} (hf : s.fault ≠ none) (hrst : i ≠ .sysRst) :
    ∃ st v, exec i s = .next (s.respond st v) := by
  by_cases hrd : ∃ r, i = .sysRd r
  · obtain ⟨r, rfl⟩ := hrd
    rcases exec_sysRd_cases r s with ⟨v, -, he⟩ | he
    · exact ⟨.ok, v, he⟩
    · exact ⟨.refused, 0#64, he.trans (command_of_fault hf)⟩
  · exact ⟨.refused, 0#64, (exec_eq_command i s hrst (not_exists.mp hrd)).trans (command_of_fault hf)⟩

theorem Run.finish_keeps {P : State → Prop} (hP : EndStable P) {r : Run Word} {t : State}
    (hr : r.Keeps P) (h : r.finish = .next t) : P t := by
  rcases Run.finish_next h with ⟨s, v, rfl, rfl⟩ | ⟨s, k, p, rfl, rfl⟩
  · exact hP.respond _ _ _ hr
  · exact hP.respond _ _ _ (hP.raise _ _ _ hr)

/-! ## The frame of a command (R50)

The frame holds of every state that a command comes to, not only of its last one: it holds where the command
starts, and each write of one of its items keeps it. -/

/-- Every item of which `i` is no writer is in `t` as it is in `s`; the fault registers too, unless a fault has
been taken. -/
structure Frame (i : Instr) (s t : State) : Prop where
  buf : writesBuf i = false → t.buf = s.buf
  txt : writesTxt i = false → t.txt = s.txt
  ft : writesFt i = false → t.ft = s.ft
  bits : ∀ k, writesBits i k = false → t.bits k = s.bits k
  cur : ∀ k, writesCur i k = false → t.cur k = s.cur k
  tree : writesTree i = false →
    t.nd = s.nd ∧ t.root = s.root ∧ t.pq = s.pq ∧ t.nextSeq = s.nextSeq ∧ t.tst = s.tst
  walk : writesWalk i = false → t.walk = s.walk ∧ t.dpos = s.dpos
  codebook : writesCodebook i = false → t.cb = s.cb ∧ t.cvalid = s.cvalid
  faultRegs : (t.fault = s.fault ∧ t.fpos = s.fpos ∧ t.fposv = s.fposv) ∨
    (s.fault = none ∧ t.fault ≠ none) ∨ i = .sysRst

variable {i : Instr} {s₀ : State}

theorem frame_refl (i : Instr) (s : State) : Frame i s s where
  buf _ := rfl
  txt _ := rfl
  ft _ := rfl
  bits _ _ := rfl
  cur _ _ := rfl
  tree _ := ⟨rfl, rfl, rfl, rfl, rfl⟩
  walk _ := ⟨rfl, rfl⟩
  codebook _ := ⟨rfl, rfl⟩
  faultRegs := .inl ⟨rfl, rfl, rfl⟩

/-- SYS.RST is a writer of every item (R183). -/
theorem frame_sysRst (s t : State) : Frame .sysRst s t := by
  constructor
  case faultRegs => exact .inr (.inr rfl)
  all_goals intros; contradiction

/-- Whoever writes the table writes the tree (R90). -/
theorem writesTree_of_writesFt (hw : writesFt i = true) : writesTree i = true := by
  unfold writesTree
  split <;> trivial

theorem writesCodebook_of_writesFt (hw : writesFt i = true) : writesCodebook i = true := by
  unfold writesCodebook
  split <;> trivial

/-- Whoever writes the tree writes the walk in it (R33). -/
theorem writesWalk_of_writesTree (hw : writesTree i = true) : writesWalk i = true := by
  unfold writesWalk
  split <;> trivial

/-! ### The frame under each write of a writer -/

theorem Frame.setBuf (hw : writesBuf i = true) (s : State) (m : Memory) (h : Frame i s₀ s) :
    Frame i s₀ { s with buf := m } :=
  { h with buf := by simp [hw] }

theorem Frame.setTxt (hw : writesTxt i = true) (s : State) (l : List Symbol) (h : Frame i s₀ s) :
    Frame i s₀ { s with txt := l } :=
  { h with txt := by simp [hw] }

theorem Frame.setBits {k : Slot} (hw : writesBits i k = true) (s : State) (b : Bits) (h : Frame i s₀ s) :
    Frame i s₀ (s.setBits k b) := by
  have hbits : ∀ j, writesBits i j = false → (s.setBits k b).bits j = s₀.bits j := fun j hj => by
    have hne : j ≠ k := by rintro rfl; exact absurd (hw.symm.trans hj) (by decide)
    rw [State.bits_setBits, if_neg hne, h.bits j hj]
  cases k <;> exact { h with bits := hbits }

theorem Frame.setCur {k : Slot} (hw : writesCur i k = true) (s : State) (n : Nat) (h : Frame i s₀ s) :
    Frame i s₀ (s.setCur k n) := by
  have hcur : ∀ j, writesCur i j = false → (s.setCur k n).cur j = s₀.cur j := fun j hj => by
    have hne : j ≠ k := by rintro rfl; exact absurd (hw.symm.trans hj) (by decide)
    rw [State.cur_setCur, if_neg hne, h.cur j hj]
  cases k <;> exact { h with cur := hcur }

theorem Frame.setWalk (hw : writesWalk i = true) (s : State) (w : Nat) (d : Word32) (h : Frame i s₀ s) :
    Frame i s₀ { s with walk := w, dpos := d } :=
  { h with walk := by simp [hw] }

theorem Frame.setCodebook (hw : writesCodebook i = true) (s : State) (cb : List Bits) (h : Frame i s₀ s) :
    Frame i s₀ (s.setCodebook cb) :=
  { h with codebook := by simp [hw] }

/-- A writer of the tree may write all that HT.DIS does. -/
theorem frame_dropTree_iff (hw : writesTree i = true) (s : State) :
    Frame i s₀ s.dropTree ↔ Frame i s₀ s := by
  constructor <;> intro h <;>
    exact { h with tree := by simp [hw], walk := by simp [writesWalk_of_writesTree hw] }

theorem Frame.setTree (hw : writesTree i = true) (s t : State) (hd : t.dropTree = s.dropTree)
    (h : Frame i s₀ s) : Frame i s₀ t := by
  rw [← frame_dropTree_iff hw] at h ⊢
  rwa [hd]

theorem Frame.setTable (hw : writesFt i = true) (s : State) (ft : List Entry) (h : Frame i s₀ s) :
    Frame i s₀ (s.setTable ft) :=
  { (frame_dropTree_iff (writesTree_of_writesFt hw) s).mpr h with
    ft := by simp [hw]
    codebook := by simp [writesCodebook_of_writesFt hw] }

theorem Frame.respond {s : State} (h : Frame i s₀ s) (st : Status) (v : Word) :
    Frame i s₀ (s.respond st v) := { h with }

/-- The end of a command writes the fault registers only outside the fault state (R34, R198). -/
theorem frame_endStable (hf : s₀.fault = none) : EndStable (Frame i s₀) where
  respond _ st v h := h.respond st v
  raise _ _ _ h := { h with faultRegs := .inr (.inl ⟨hf, by simp⟩) }

/-! ### Every command -/

theorem pseudocode_frame (i : Instr) (s : State) : (pseudocode i s).Keeps (Frame i s) := by
  have h := frame_refl i s
  cases i with
  | sysRst => exact frame_sysRst _ _
  | sysRd r =>
    unfold pseudocode
    dsimp only
    split <;> exact h
  | ftClr => exact h.setTable rfl _ _
  | ftCnt sym => exact countSymbol_keeps (Frame.setTable rfl) h sym
  | ftPut sym v => exact putEntry_keeps (Frame.setTable rfl) h sym v
  | ftSym idx => exact (readEntry_reads idx _ s).keeps_of_eq h
  | ftFrq idx => exact (readEntry_reads idx _ s).keeps_of_eq h
  | bsClr k => exact (h.setBits (by simp [writesBits]) _ _).setCur (by simp [writesCur]) _ _
  | bsApp k v => exact appendOperand_keeps (Frame.setBits (by simp [writesBits])) h v
  | bsExt k j => exact thenLen_keeps (appendBits_keeps (Frame.setBits (by simp [writesBits])) h _) k
  | bsGet k idx => exact (getBit_reads k idx s).keeps_of_eq h
  | bsTob k => exact toBytes_keeps (Frame.setBuf rfl) h k
  | bsFrb k v =>
    exact thenLen_keeps (fromBytes_keeps (Frame.setBits (by simp [writesBits]))
      (Frame.setCur (by simp [writesCur])) h _ _ _) k
  | bsFrba k =>
    exact thenLen_keeps (fromBytes_keeps (Frame.setBits (by simp [writesBits]))
      (Frame.setCur (by simp [writesCur])) h _ _ _) k
  | bsEq k j => exact h
  | bsHash k => exact h
  | bsRwd k => exact h.setCur (by simp [writesCur]) _ _
  | bsNxt k => exact nextBit_keeps (Frame.setCur (by simp [writesCur])) h
  | bufClr => exact h.setBuf rfl _ _
  | bufPush byte => exact pushByte_keeps (Frame.setBuf rfl) h byte
  | bufLd idx => exact (loadByte_reads idx s).keeps_of_eq h
  | bufSt byte idx => exact storeByte_keeps (Frame.setBuf rfl) h byte idx
  | bufTrn v => exact truncate_keeps (Frame.setBuf rfl) h v
  | txtClr => exact h.setTxt rfl _ _
  | txtPush sym => exact pushSymbol_keeps (Frame.setTxt rfl) h sym
  | txtLd idx => exact (loadSymbol_reads idx s).keeps_of_eq h
  | htIni => exact Frame.setTree rfl s _ rfl h
  | htMrg => exact require_sat h fun _ => mergeStep_keeps (Frame.setTree rfl) h
  | htBld => exact (buildTree_keeps (Frame.setTree rfl) h).bind fun _ _ ht => ht
  | htDis => exact Frame.setTree rfl s _ rfl h
  | htNdk idx => exact (readNode_reads idx _ s).keeps_of_eq h
  | htNdf idx => exact (readNode_reads idx (fun nd => some (num nd.freq)) s).keeps_of_eq h
  | htNdl idx => exact (readNode_reads idx _ s).keeps_of_eq h
  | htNdr idx => exact (readNode_reads idx _ s).keeps_of_eq h
  | cbDrv =>
    exact require_sat h fun _ => (deriveCodebook_keeps (Frame.setCodebook rfl) h).bind fun _ _ ht => ht
  | encSym k sym =>
    exact require_sat h fun _ =>
      thenLen_keeps (encodeSymbol_keeps (Frame.setBits (by simp [writesBits])) h sym none) k
  | encRun k =>
    exact encodeRun_keeps (Frame.setTree rfl) (Frame.setTable rfl) (Frame.setCodebook rfl)
      (Frame.setBits (by simp [writesBits])) (Frame.setCur (by simp [writesCur])) h
  | decRst => exact require_sat h fun _ => h.setWalk rfl _ _ _
  | decBit v => exact require_sat h fun _ => decodeOperand_keeps (Frame.setWalk rfl) h v
  | decEnd =>
    exact require_sat h fun _ => ((checkEnd_reads s).keeps_of_eq h).bind fun _ _ ht => ht
  | decRun k => exact decodeRun_keeps (Frame.setTree rfl) (Frame.setTxt rfl) h k
  | czWr k => exact writeFile_keeps (Frame.setBuf rfl) h k
  | czRd k =>
    exact readFile_keeps (Frame.setTable rfl) (Frame.setBits (by simp [writesBits]))
      (Frame.setCur (by simp [writesCur])) h

theorem exec_frame {s t : State} (h : exec i s = .next t) : Frame i s t := by
  by_cases hrst : i = .sysRst
  · exact hrst ▸ frame_sysRst s t
  by_cases hf : s.fault = none
  · rw [exec_of_ok hf hrst] at h
    exact Run.finish_keeps (frame_endStable hf)
      (require_sat (frame_refl i s) fun _ => pseudocode_frame i s) h
  · obtain ⟨st, v, he⟩ := exec_of_fault hf hrst
    rw [he] at h
    cases h
    exact (frame_refl i s).respond st v

theorem exec_cmds {s t : State} (h : exec i s = .next t) : t.cmds = s.cmds := by
  have hk : Kept s t := exec_keeps (kept_endStable s) (kept_refl s) (powerOn_kept s)
    (fun hw => pseudocode_kept i hw s) h
  simpa [State.params] using congrArg (fun p => p.2.2.2.2) hk.1

/-- Settles O19, from the frame of the command. -/
theorem onlyWritersWrite : Obligations.OnlyWritersWrite := by
  intro i s t h
  have hfr := exec_frame h
  exact ⟨fun hw a => by rw [hfr.buf hw], hfr.txt, hfr.ft, hfr.bits, hfr.cur, hfr.tree, hfr.walk,
    hfr.codebook, hfr.faultRegs, exec_cmds h⟩

end Sys2Proof.Machine

namespace Sys2Proof.Machine

/-- The sum of R55 over the eight bits of a byte is the number with these bits, the first one highest. -/
theorem byteSum_eq_ofBits (f : Nat → Bool) :
    ((List.range 8).map fun j => if f j then 2 ^ (7 - j) else 0).sum =
      Nat.ofBits fun i : Fin 8 => f (7 - i) := by
  have hbit : ∀ (c : Bool) (n : Nat), (if c then n else 0) = c.toNat * n := by
    intro c n
    cases c <;> simp
  simp [List.range_succ, Nat.ofBits_succ, hbit]
  omega

/-- Byte `k` of `pack b` as a number: the sum of R55, which fits 8 bits. -/
theorem packByte_toNat (b : Bits) (k : Nat) :
    (packByte b k).toNat = Nat.ofBits fun i : Fin 8 => b.getD (8 * k + (7 - i)) false := by
  rw [packByte, byteSum_eq_ofBits fun j => b.getD (8 * k + j) false, BitVec.toNat_ofNat]
  exact Nat.mod_eq_of_lt (Nat.ofBits_lt_two_pow _)

/-- Word-bit `i` of byte `k` of `pack b` is the stream's bit `8k + 7 - i`, missing bits 0 (R54, R55). -/
theorem packByte_getLsbD (b : Bits) (k : Nat) {i : Nat} (h : i < 8) :
    (packByte b k).getLsbD i = b.getD (8 * k + (7 - i)) false := by
  rw [BitVec.getLsbD, packByte_toNat, Nat.testBit_ofBits_lt _ _ h]

theorem pack_getElem? (b : Bits) {k : Nat} (h : k < ceil8 b.length) :
    (pack b)[k]? = some (packByte b k) := by simp [pack, h]

/-- A stream bit of `pack b` is that bit of `b`; the padding bits are 0 (R54, R55). -/
theorem byteBit_pack (b : Bits) (i : Nat) : byteBit (pack b) i = b.getD i false := by
  rw [byteBit, List.getD_eq_getElem?_getD]
  by_cases h : i / 8 < ceil8 b.length
  · rw [pack_getElem? b h, Option.getD_some, packByte_getLsbD _ _ (by omega)]
    congr 1
    omega
  · have hi : b.length ≤ i := by rw [ceil8] at h; omega
    simp [List.getElem?_eq_none (not_lt.mp ((pack_length b).symm ▸ h)), hi]

theorem unpack_getElem? (B : List Byte) {L i : Nat} (h : i < L) :
    (unpack B L)[i]? = some (byteBit B i) := by simp [unpack, h]

/-- A word-bit of a byte, as arithmetic of its number. -/
theorem byte_getLsbD_eq (x : Byte) (i : Nat) : x.getLsbD i = (x.toNat / 2 ^ i % 2 == 1) := by
  rw [BitVec.getLsbD, Nat.testBit_eq_decide_div_mod_eq, beq_eq_decide]

/-- Equally long byte sequences with the same stream bits are equal. -/
theorem bytes_ext {A B : List Byte} (hlen : A.length = B.length)
    (hbits : ∀ i < 8 * B.length, byteBit A i = byteBit B i) : A = B := by
  refine List.ext_getElem hlen fun n hA hB => BitVec.eq_of_getLsbD_eq fun j hj => ?_
  have h := hbits (8 * n + (7 - j)) (by omega)
  have hdiv : (8 * n + (7 - j)) / 8 = n := by omega
  have hmod : 7 - (8 * n + (7 - j)) % 8 = j := by omega
  rw [byteBit, byteBit, hdiv, hmod] at h
  simpa [hA, hB] using h

/-- Unpacking undoes packing (R55). -/
theorem unpack_pack (b : Bits) : unpack (pack b) b.length = b := by
  refine List.ext_getElem (unpack_length _ _) fun i hi hb => ?_
  simp [unpack, byteBit_pack, hb]

/-- Packing again gives back the unpacked bits, and 0 for the padding (R55). -/
theorem byteBit_pack_unpack (B : List Byte) (L i : Nat) :
    byteBit (pack (unpack B L)) i = if i < L then byteBit B i else false := by
  rw [byteBit_pack, List.getD_eq_getElem?_getD]
  split_ifs with h
  · rw [unpack_getElem? B h, Option.getD_some]
  · simp [not_lt.mp h]

/-- Packing undoes unpacking exactly when the padding bits are 0 (R55). -/
theorem pack_unpack_iff {B : List Byte} {L : Nat} (hlen : B.length = ceil8 L) :
    pack (unpack B L) = B ↔ ∀ i, L ≤ i → i < 8 * B.length → byteBit B i = false := by
  constructor
  · intro h i hi _
    rw [← h, byteBit_pack_unpack, if_neg (not_lt.mpr hi)]
  · intro h
    refine bytes_ext (by simp [hlen]) fun i hi => ?_
    rw [byteBit_pack_unpack]
    split_ifs with hL
    · rfl
    · exact (h i (not_lt.mp hL) hi).symm

/-- Settles O28: a byte of `pack` is a number with eight given bits, and byte sequences are compared bit
by bit. -/
theorem packUnpackInverse : Obligations.PackUnpackInverse := by
  refine ⟨fun b k hk => ⟨packByte b k, pack_getElem? b hk, ?_⟩, pack_length, fun _ _ => rfl,
    fun B L i x hi hx => ?_, unpack_length, unpack_pack, fun _ _ => pack_unpack_iff⟩
  · rw [packByte_toNat, ← byteSum_eq_ofBits fun j => b.getD (8 * k + j) false]
    refine congrArg List.sum (List.map_congr_left fun j _ => ?_)
    by_cases hj : 8 * k + j < b.length
    · cases hb : b[8 * k + j] <;> simp [hj, hb]
    · simp [hj]
  · rw [unpack_getElem? B hi, byteBit, List.getD_eq_getElem?_getD, hx, Option.getD_some, byte_getLsbD_eq]

end Sys2Proof.Machine

namespace Sys2Proof.Machine

/-! ## One step (R60, R73) -/

theorem step_of_cmds_cons {s : State} {w : Word} {rest : List Word} (h : s.cmds = w :: rest) :
    step s = execWord w { s with cmds := rest } := by rw [step, h]

theorem step_of_cmds_nil {s : State} (h : s.cmds = []) : step s = .next s := by rw [step, h]

theorem execWord_of_decode {w : Word} {i : Instr} (h : decode w = .ok i) (s : State) :
    execWord w s = exec i s := by rw [execWord, h]

theorem decodeTableWord_eq_some {nbits w : Nat} {i : Instr} :
    decodeTableWord nbits w = some i ↔ decode (tableWord nbits w) = .ok i := by
  unfold decodeTableWord
  cases decode (tableWord nbits w) <;> simp

/-- Settles O6, from the equations of a step and of a word that decodes. -/
theorem stepRunsDecodedCommand : Obligations.StepRunsDecodedCommand := by
  refine ⟨fun _ _ _ => step_of_cmds_cons, fun s w rest i hw hd => ?_, fun s nbits w i hd => ?_,
    fun _ => step_of_cmds_nil⟩
  · rw [step_of_cmds_cons hw, execWord_of_decode hd]
  · rw [step_of_cmds_cons rfl, execWord_of_decode (decodeTableWord_eq_some.mp hd), State.withFetchWord]

end Sys2Proof.Machine

/-! ## The encoding (30_encoding.md R70 to R76)

A word is its three fields, and decoding and encoding are compared field by field. Each format is treated once:
`Format.keep` names the bits of the operand fields that the format uses. -/

namespace Sys2Proof

/-! ### The fields of a word (R70, R71) -/

/-- A bit vector is its high part and its low part. -/
theorem append_eq_iff_extract {m n : Nat} {y : BitVec m} {z : BitVec n} {x : BitVec (m + n)} :
    y ++ z = x ↔ x.extractLsb' n m = y ∧ x.extractLsb' 0 n = z := by
  constructor
  · rintro rfl
    exact ⟨BitVec.extractLsb'_append_eq_left, BitVec.extractLsb'_append_eq_right⟩
  · rintro ⟨rfl, rfl⟩
    rw [BitVec.extractLsb'_append_extractLsb'_eq_extractLsb' (Nat.zero_add n).symm]
    exact BitVec.extractLsb'_eq_self

@[simp] theorem opField_assemble (op : BitVec 8) (a : BitVec 24) (b : Word32) :
    opField (assemble op a b) = op :=
  (BitVec.extractLsb'_append_eq_of_le (by decide)).trans BitVec.extractLsb'_append_eq_left

@[simp] theorem aField_assemble (op : BitVec 8) (a : BitVec 24) (b : Word32) :
    aField (assemble op a b) = a :=
  (BitVec.extractLsb'_append_eq_of_le (by decide)).trans BitVec.extractLsb'_append_eq_right

@[simp] theorem bField_assemble (op : BitVec 8) (a : BitVec 24) (b : Word32) :
    bField (assemble op a b) = b := BitVec.extractLsb'_append_eq_right

theorem assemble_fields (w : Word) : assemble (opField w) (aField w) (bField w) = w := by
  have hhigh : opField w ++ aField w = w.extractLsb' 32 32 :=
    BitVec.extractLsb'_append_extractLsb'_eq_extractLsb' rfl
  exact append_eq_iff_extract.mpr ⟨hhigh.symm, rfl⟩

theorem word_eq_iff_fields {v w : Word} :
    v = w ↔ opField v = opField w ∧ aField v = aField w ∧ bField v = bField w := by
  constructor
  · rintro rfl
    exact ⟨rfl, rfl, rfl⟩
  · rintro ⟨hop, ha, hb⟩
    rw [← assemble_fields v, hop, ha, hb, assemble_fields]

/-! ### The sub-fields of a word (R71) -/

theorem slot_bit_ofBit {n : Nat} (x : BitVec n) (i : Nat) :
    (Slot.ofBit (x.getLsbD i)).bit = x.extractLsb' i 1 := by
  ext j hj
  obtain rfl : j = 0 := by omega
  cases h : x.getLsbD i <;> simp [Slot.ofBit, Slot.bit, h]

@[simp] theorem subS_putS (k : Slot) : subS (putS k) = k := by cases k <;> rfl

@[simp] theorem subT_putT (j : Slot) : subT (putT j) = j := by cases j <;> rfl

@[simp] theorem subS_putSSym (k : Slot) (sym : Symbol) : subS (putSSym k sym) = k := by
  have h : (putSSym k sym).getLsbD 23 = (k.bit ++ 0#2 : BitVec 3).getLsbD 2 := BitVec.getLsbD_append
  rw [subS, h]
  cases k <;> rfl

@[simp] theorem subSym_putSym (sym : Symbol) : subSym (putSym sym) = sym :=
  BitVec.extractLsb'_append_eq_right

@[simp] theorem subSym_putSSym (k : Slot) (sym : Symbol) : subSym (putSSym k sym) = sym :=
  BitVec.extractLsb'_append_eq_right

@[simp] theorem subByte_putByte (byte : Byte) : subByte (putByte byte) = byte :=
  BitVec.extractLsb'_append_eq_right

@[simp] theorem subR_putR (r : BitVec 8) : subR (putR r) = r := BitVec.extractLsb'_append_eq_right

theorem putS_subS_iff {a : BitVec 24} : putS (subS a) = a ↔ a.extractLsb' 0 23 = 0#23 := by
  rw [putS, subS, slot_bit_ofBit]
  exact append_eq_iff_extract.trans (and_iff_right rfl)

theorem putT_subT_iff {b : Word32} : putT (subT b) = b ↔ b.extractLsb' 1 31 = 0#31 := by
  rw [putT, subT, slot_bit_ofBit]
  exact append_eq_iff_extract.trans (and_iff_left rfl)

theorem putSym_subSym_iff {a : BitVec 24} : putSym (subSym a) = a ↔ a.extractLsb' 21 3 = 0#3 :=
  append_eq_iff_extract.trans (and_iff_left rfl)

theorem putByte_subByte_iff {a : BitVec 24} : putByte (subByte a) = a ↔ a.extractLsb' 8 16 = 0#16 :=
  append_eq_iff_extract.trans (and_iff_left rfl)

theorem putR_subR_iff {b : Word32} : putR (subR b) = b ↔ b.extractLsb' 8 24 = 0#24 :=
  append_eq_iff_extract.trans (and_iff_left rfl)

theorem putSSym_subSSym_iff {a : BitVec 24} :
    putSSym (subS a) (subSym a) = a ↔ a.extractLsb' 21 2 = 0#2 := by
  have hhigh : a.extractLsb' 21 3 = a.extractLsb' 23 1 ++ 0#2 ↔ a.extractLsb' 21 2 = 0#2 := by
    rw [← BitVec.extractLsb'_append_extractLsb'_eq_extractLsb' (start₂ := 23) (len₁ := 2) rfl]
    exact BitVec.append_right_inj _
  rw [putSSym, subS, slot_bit_ofBit, ← hhigh]
  exact append_eq_iff_extract.trans (and_iff_left rfl)

/-! ### The formats (R72) -/

/-- The operand fields of a format with every must-be-zero bit cleared. -/
def Format.keep (f : Format) (a : BitVec 24) (b : Word32) : BitVec 24 × Word32 :=
  match f with
  | .n => (0#24, 0#32)
  | .s => (putS (subS a), 0#32)
  | .sb => (putS (subS a), b)
  | .ss => (putS (subS a), putT (subT b))
  | .y => (putSym (subSym a), 0#32)
  | .yb => (putSym (subSym a), b)
  | .sy => (putSSym (subS a) (subSym a), 0#32)
  | .b => (0#24, b)
  | .c => (putByte (subByte a), 0#32)
  | .cb => (putByte (subByte a), b)
  | .r => (0#24, putR (subR b))

/-- The must-be-zero bits of a format are zero exactly when clearing them changes nothing. -/
theorem mbzZero_iff_keep {f : Format} {a : BitVec 24} {b : Word32} :
    mbzZero f a b = true ↔ f.keep a b = (a, b) := by
  cases f <;> simp [mbzZero, Format.keep, putS_subS_iff, putT_subT_iff, putSym_subSym_iff,
    putSSym_subSSym_iff, putByte_subByte_iff, putR_subR_iff, eq_comm (a := 0#_)]

/-- A mask over the bits from `start` on, `len` of them, tests that these bits are zero. -/
theorem and_mask_eq_zero_iff {n : Nat} (start len : Nat) (x : BitVec n) :
    x &&& (BitVec.allOnes len).setWidth n <<< start = 0#n ↔ x.extractLsb' start len = 0#len := by
  constructor
  · intro h
    ext i hi
    have hbit := congrArg (fun y => y.getLsbD (start + i)) h
    by_cases hn : start + i < n
    · have hin : i < n := by omega
      simpa [hn, hi, hin] using hbit
    · simp [not_lt.mp hn]
  · intro h
    ext i hi
    by_cases hs : i < start
    · simp [hs]
    · obtain ⟨j, rfl⟩ := Nat.exists_eq_add_of_le (not_lt.mp hs)
      have hbit := congrArg (fun y => y.getLsbD j) h
      by_cases hj : j < len
      · simpa [hi, hj] using hbit
      · simp [hj]

/-- The must-be-zero bits of the operand fields are those of the mask (the table of R72). -/
theorem mbzZero_iff_mask {f : Format} {a : BitVec 24} {b : Word32} :
    mbzZero f a b = true ↔ a &&& aField f.mask = 0#24 ∧ b &&& bField f.mask = 0#32 := by
  have hs : a &&& 0x7FFFFF#24 = 0#24 ↔ a.extractLsb' 0 23 = 0#23 := and_mask_eq_zero_iff 0 23 a
  have hy : a &&& 0xE00000#24 = 0#24 ↔ a.extractLsb' 21 3 = 0#3 := and_mask_eq_zero_iff 21 3 a
  have hsy : a &&& 0x600000#24 = 0#24 ↔ a.extractLsb' 21 2 = 0#2 := and_mask_eq_zero_iff 21 2 a
  have hc : a &&& 0xFFFF00#24 = 0#24 ↔ a.extractLsb' 8 16 = 0#16 := and_mask_eq_zero_iff 8 16 a
  have ht : b &&& 0xFFFFFFFE#32 = 0#32 ↔ b.extractLsb' 1 31 = 0#31 := and_mask_eq_zero_iff 1 31 b
  have hr : b &&& 0xFFFFFF00#32 = 0#32 ↔ b.extractLsb' 8 24 = 0#24 := and_mask_eq_zero_iff 8 24 b
  have ha : a &&& 0xFFFFFF#24 = a := BitVec.and_allOnes (x := a)
  have hb : b &&& 0xFFFFFFFF#32 = b := BitVec.and_allOnes (x := b)
  cases f <;> simp [mbzZero, Format.mask, aField, bField, hs, hy, hsy, hc, ht, hr, ha, hb]

/-- A word fits a row of the opcode map when it has the opcode and the must-be-zero bits are zero (R72). -/
theorem and_mask_eq_matchBits_iff {w : Word} {op : BitVec 8} {f : Format} :
    w &&& f.mask = matchBits op ↔ opField w = op ∧ mbzZero f (aField w) (bField w) = true := by
  have hand : w &&& f.mask =
      assemble (opField w) (aField w &&& aField f.mask) (bField w &&& bField f.mask) := by
    have hop : opField w &&& opField f.mask = opField w := by
      cases f <;> exact BitVec.and_allOnes
    rw [← hop, ← assemble_and, assemble_fields, assemble_fields]
  rw [hand, matchBits_eq, word_eq_iff_fields, mbzZero_iff_mask]
  simp

/-! ### Decoding and encoding (R75, R76) -/

theorem decodeFields_operands (i : Instr) : decodeFields i.opcode i.operands.1 i.operands.2 =
    fits (mbzZero i.format i.operands.1 i.operands.2) i := by
  cases i <;> simp [decodeFields, Instr.opcode, Instr.format, Instr.operands]

theorem keep_operands (i : Instr) : i.format.keep i.operands.1 i.operands.2 = i.operands := by
  cases i <;> simp [Format.keep, Instr.format, Instr.operands]

theorem mbzZero_operands (i : Instr) : mbzZero i.format i.operands.1 i.operands.2 = true :=
  mbzZero_iff_keep.mpr (keep_operands i)

theorem decode_encode (i : Instr) : decode (encode i) = .ok i := by
  rw [decode, encode, opField_assemble, aField_assemble, bField_assemble, decodeFields_operands,
    mbzZero_operands, fits, if_pos rfl]

theorem decodeFields_of_row {op : BitVec 8} {f : Format} (h : (op, f) ∈ opcodeTable) (a : BitVec 24)
    (b : Word32) : ∃ i : Instr, Machine.rowOf i = (op, f) ∧ i.operands = f.keep a b ∧
      decodeFields op a b = fits (mbzZero f a b) i := by
  fin_cases h <;> exact ⟨_, rfl, rfl, rfl⟩

/-- Every command is a row of the opcode map (R75). -/
theorem rowOf_mem_opcodeTable (i : Instr) : Machine.rowOf i ∈ opcodeTable := by
  cases i <;> simp [opcodeTable, Instr.opcode, Instr.format]

theorem decodeFields_of_no_row {op : BitVec 8} (h : ∀ p ∈ opcodeTable, op ≠ p.1) (a : BitVec 24)
    (b : Word32) : decodeFields op a b = .error .undefinedOpcode := by
  have hnot : op.toNat ∉ opcodeTable.map fun p => p.1.toNat := by
    rw [List.mem_map]
    rintro ⟨p, hp, hop⟩
    exact h p hp (BitVec.eq_of_toNat_eq hop.symm)
  unfold decodeFields
  split
  case h_44 => rfl
  all_goals
    rename_i hop
    rw [hop] at hnot
    exact absurd (by decide) hnot

theorem fits_eq_ok {z : Bool} {i j : Instr} : fits z i = .ok j ↔ z = true ∧ i = j := by
  cases z <;> simp [fits]

/-- A command read from three fields has them as its opcode and its operand fields. -/
theorem decodeFields_eq_ok {op : BitVec 8} {a : BitVec 24} {b : Word32} {i : Instr}
    (h : decodeFields op a b = .ok i) : i.opcode = op ∧ i.operands = (a, b) := by
  by_cases hrow : ∃ f, (op, f) ∈ opcodeTable
  · obtain ⟨f, hf⟩ := hrow
    obtain ⟨j, hj, hops, hd⟩ := decodeFields_of_row hf a b
    rw [hd] at h
    obtain ⟨hz, rfl⟩ := fits_eq_ok.mp h
    exact ⟨congrArg Prod.fst hj, hops.trans (mbzZero_iff_keep.mp hz)⟩
  · rw [decodeFields_of_no_row fun p hp hop => hrow ⟨p.2, by rwa [hop]⟩] at h
    cases h

/-- Decoding and encoding are inverse to each other. -/
theorem decode_eq_ok_iff {w : Word} {i : Instr} : decode w = .ok i ↔ encode i = w := by
  constructor
  · intro h
    obtain ⟨hop, hops⟩ := decodeFields_eq_ok h
    rw [encode, hop, hops, assemble_fields]
  · rintro rfl
    exact decode_encode i

/-- A word fits a row of the opcode map exactly when it decodes to a command of that row (R72). -/
theorem and_mask_eq_matchBits_iff_decode {w : Word} {op : BitVec 8} {f : Format}
    (hrow : (op, f) ∈ opcodeTable) :
    w &&& f.mask = matchBits op ↔ ∃ i, decode w = .ok i ∧ Machine.rowOf i = (op, f) := by
  rw [and_mask_eq_matchBits_iff]
  constructor
  · rintro ⟨rfl, hz⟩
    obtain ⟨i, hi, -, hd⟩ := decodeFields_of_row hrow (aField w) (bField w)
    exact ⟨i, hd.trans (fits_eq_ok.mpr ⟨hz, rfl⟩), hi⟩
  · rintro ⟨i, hd, hi⟩
    obtain ⟨rfl, rfl⟩ := Prod.mk.inj hi
    obtain rfl := decode_eq_ok_iff.mp hd
    simp [encode, mbzZero_operands]

/-! ### The obligations of 30_encoding.md -/

/-- Settles O1: a word is its fields, and each operand is read back from the field that holds it. -/
theorem decodeEncodeEveryInstr : Obligations.DecodeEncodeEveryInstr := decode_encode

/-- Settles O2: the command read from a word has the fields of the word as its own. -/
theorem encodeDecodeEveryWord : Obligations.EncodeDecodeEveryWord := fun _ _ => decode_eq_ok_iff.mp

/-- Settles O3: each mask of the table is `Format.mask`, which tests the opcode and the must-be-zero bits. -/
theorem wordSpellsCommandByMask : Obligations.WordSpellsCommandByMask := by
  intro w op f m hrow hm
  obtain rfl : m = f.mask := by fin_cases hm <;> rfl
  exact and_mask_eq_matchBits_iff_decode hrow

/-- Settles O5, by evaluating the decoder on each word. -/
theorem sampleWordsDecode : Obligations.SampleWordsDecode := by
  unfold Obligations.SampleWordsDecode
  decide

end Sys2Proof

namespace Sys2Proof.Machine

/-! ## The words that spell no command (30_encoding.md R76) -/

theorem isScalar_eq_false_iff {sym : Symbol} :
    isScalar sym = false ↔ sym.toNat > 0x10FFFF ∨ (0xD800 ≤ sym.toNat ∧ sym.toNat ≤ 0xDFFF) := by
  simp [isScalar]
  omega

/-- Slots are as many as the values of a bit. -/
theorem slot_ofBit_inj {x y : Bool} : Slot.ofBit x = Slot.ofBit y ↔ x = y := by
  cases x <;> cases y <;> decide

/-- The operands of a command are out of range in the cases c to f of R76. -/
theorem wellFormed_eq_false_iff (i : Instr) : i.wellFormed = false ↔
    ((i.format = .y ∨ i.format = .yb ∨ i.format = .sy) ∧ isScalar (subSym i.operands.1) = false) ∨
    (i.opcode = 0x02#8 ∧ (subR i.operands.2).toNat > 21) ∨
    (i.opcode = 0x22#8 ∧ subS i.operands.1 = subT i.operands.2) ∨
    (i.opcode = 0x12#8 ∧ i.operands.2 = 0#32) := by
  cases i <;> simp [Instr.wellFormed, Instr.format, Instr.opcode, Instr.operands, regLegal, slotsDiffer,
    freqLegal, imp_iff_not_or]

/-- The opcode map has one row for each opcode (R75). -/
theorem eq_rowOf {i : Instr} {p : BitVec 8 × Format} (hp : p ∈ opcodeTable) (hop : i.opcode = p.1) :
    p = rowOf i :=
  List.inj_on_of_nodup_map (by decide : (opcodeTable.map Prod.fst).Nodup) hp (rowOf_mem_opcodeTable i) hop.symm

theorem exists_row_iff {i : Instr} {Q : BitVec 8 × Format → Prop} :
    (∃ p ∈ opcodeTable, i.opcode = p.1 ∧ Q p) ↔ Q (rowOf i) := by
  constructor
  · rintro ⟨p, hp, hop, hq⟩
    exact eq_rowOf hp hop ▸ hq
  · exact fun hq => ⟨rowOf i, rowOf_mem_opcodeTable i, rfl, hq⟩

/-- The word of a command is in one of the cases of R76 exactly when an operand is out of range: it has its
opcode and zero must-be-zero bits, so it is not in the cases a and b. -/
theorem spellsNothing_encode_iff (i : Instr) : SpellsNothing (encode i) ↔ i.wellFormed = false := by
  have hop : (encode i).extractLsb' 56 8 = i.opcode := opField_assemble _ _ _
  have ha : aField (encode i) = i.operands.1 := aField_assemble _ _ _
  have hb : bField (encode i) = i.operands.2 := bField_assemble _ _ _
  have hsym : (encode i).extractLsb' 32 21 = subSym i.operands.1 := by
    rw [← ha]
    ext j hj
    have hj' : j < 24 := by omega
    simp [subSym, aField, hj']
  have hr : (encode i).extractLsb' 0 8 = subR i.operands.2 := by
    rw [← hb]
    ext j hj
    simp [subR, bField]
  have hst : (encode i).getLsbD 55 = (encode i).getLsbD 0 ↔ subS i.operands.1 = subT i.operands.2 := by
    rw [← ha, ← hb, subS, subT, slot_ofBit_inj]
    simp [aField, bField]
  have hv : (encode i).extractLsb' 0 32 = i.operands.2 := hb
  have hmask : encode i &&& i.format.mask = matchBits i.opcode :=
    (and_mask_eq_matchBits_iff_decode (rowOf_mem_opcodeTable i)).mpr ⟨i, decode_encode i, rfl⟩
  have hrow : ¬ ∀ p ∈ opcodeTable, i.opcode ≠ p.1 := fun h => h _ (rowOf_mem_opcodeTable i) rfl
  rw [wellFormed_eq_false_iff, SpellsNothing, hop, hsym, hr, hst, hv, exists_row_iff, exists_row_iff,
    isScalar_eq_false_iff, or_iff_right hrow, or_iff_right (not_not.mpr hmask)]

/-- A word that decodes to no command has an undefined opcode or a must-be-zero bit set (R76 a and b). -/
theorem spellsNothing_of_not_decode {w : Word} (h : ¬ ∃ i, decode w = .ok i) : SpellsNothing w := by
  by_cases hrow : ∃ p ∈ opcodeTable, w.extractLsb' 56 8 = p.1
  · obtain ⟨p, hp, hop⟩ := hrow
    refine .inr (.inl ⟨p, hp, hop, fun hm => h ?_⟩)
    obtain ⟨i, hd, -⟩ := (and_mask_eq_matchBits_iff_decode hp).mp hm
    exact ⟨i, hd⟩
  · exact .inl fun p hp hop => hrow ⟨p, hp, hop⟩

theorem spellsNothing_iff {w : Word} :
    SpellsNothing w ↔ ¬ ∃ i, decode w = .ok i ∧ i.wellFormed = true := by
  by_cases hd : ∃ i, decode w = .ok i
  · obtain ⟨i, hi⟩ := hd
    obtain rfl := decode_eq_ok_iff.mp hi
    simp [spellsNothing_encode_iff, decode_encode]
  · exact iff_of_true (spellsNothing_of_not_decode hd) fun ⟨i, hi, _⟩ => hd ⟨i, hi⟩

theorem execWord_of_spellsNothing {s : State} {w : Word} (hf : s.fault = none) (hw : SpellsNothing w) :
    execWord w s = faulted s .illegalCommand none := by
  rw [execWord]
  cases hd : decode w with
  | error e => exact command_illegal hf
  | ok i =>
    obtain rfl := decode_eq_ok_iff.mp hd
    have hwf : i.wellFormed = false := (spellsNothing_encode_iff i).mp hw
    have hrst : i ≠ .sysRst := by rintro rfl; cases hwf
    show exec i s = _
    rw [exec_of_ok hf hrst, hwf]
    rfl

/-- Settles O4: a word decodes to no command, or to one whose operands are out of range. -/
theorem illegalWordsRaise : Obligations.IllegalWordsRaise :=
  ⟨fun _ => spellsNothing_iff, fun _ _ => execWord_of_spellsNothing⟩

/-! ## The response to a word (30_encoding.md R73, 60_exceptions.md R198 to R200) -/

/-- What no pseudocode writes and only the end of a command does (R198): the fault registers and the
responses. -/
def State.record (s : State) : Option FaultKind × Word32 × Bool × List Response :=
  (s.fault, s.fpos, s.fposv, s.out)

theorem record_eq_iff {s t : State} : t.record = s.record ↔
    t.fault = s.fault ∧ t.fpos = s.fpos ∧ t.fposv = s.fposv ∧ t.out = s.out := by
  simp [State.record]

/-- A property that survives every write of a piece of pseudocode, whatever it writes. -/
structure WriteStable (P : State → Prop) : Prop where
  buf : ∀ s m, P s → P { s with buf := m }
  txt : ∀ s l, P s → P { s with txt := l }
  bits : ∀ k s b, P s → P (s.setBits k b)
  cur : ∀ k s n, P s → P (s.setCur k n)
  table : ∀ s ft, P s → P (s.setTable ft)
  codebook : ∀ s cb, P s → P (s.setCodebook cb)
  tree : ∀ s t, t.dropTree = s.dropTree → P s → P t

/-- No command's pseudocode but that of SYS.RST does anything but these writes (R50). -/
theorem pseudocode_keeps {P : State → Prop} (hP : WriteStable P) {i : Instr} (hrst : i ≠ .sysRst)
    {s : State} (h : P s) : (pseudocode i s).Keeps P := by
  cases i with
  | sysRst => exact absurd rfl hrst
  | sysRd r =>
    unfold pseudocode
    dsimp only
    split <;> exact h
  | ftClr => exact hP.table _ _ h
  | ftCnt sym => exact countSymbol_keeps hP.table h sym
  | ftPut sym v => exact putEntry_keeps hP.table h sym v
  | ftSym idx => exact (readEntry_reads idx _ s).keeps_of_eq h
  | ftFrq idx => exact (readEntry_reads idx _ s).keeps_of_eq h
  | bsClr k => exact hP.cur _ _ _ (hP.bits _ _ _ h)
  | bsApp k v => exact appendOperand_keeps (hP.bits k) h v
  | bsExt k j => exact thenLen_keeps (appendBits_keeps (hP.bits k) h _) k
  | bsGet k idx => exact (getBit_reads k idx s).keeps_of_eq h
  | bsTob k => exact toBytes_keeps hP.buf h k
  | bsFrb k v => exact thenLen_keeps (fromBytes_keeps (hP.bits k) (hP.cur k) h _ _ _) k
  | bsFrba k => exact thenLen_keeps (fromBytes_keeps (hP.bits k) (hP.cur k) h _ _ _) k
  | bsEq k j => exact h
  | bsHash k => exact h
  | bsRwd k => exact hP.cur _ _ _ h
  | bsNxt k => exact nextBit_keeps (hP.cur k) h
  | bufClr => exact hP.buf _ _ h
  | bufPush byte => exact pushByte_keeps hP.buf h byte
  | bufLd idx => exact (loadByte_reads idx s).keeps_of_eq h
  | bufSt byte idx => exact storeByte_keeps hP.buf h byte idx
  | bufTrn v => exact truncate_keeps hP.buf h v
  | txtClr => exact hP.txt _ _ h
  | txtPush sym => exact pushSymbol_keeps hP.txt h sym
  | txtLd idx => exact (loadSymbol_reads idx s).keeps_of_eq h
  | htIni => exact hP.tree s _ rfl h
  | htMrg => exact require_sat h fun _ => mergeStep_keeps hP.tree h
  | htBld => exact (buildTree_keeps hP.tree h).bind fun _ _ ht => ht
  | htDis => exact hP.tree s _ rfl h
  | htNdk idx => exact (readNode_reads idx _ s).keeps_of_eq h
  | htNdf idx => exact (readNode_reads idx (fun nd => some (num nd.freq)) s).keeps_of_eq h
  | htNdl idx => exact (readNode_reads idx _ s).keeps_of_eq h
  | htNdr idx => exact (readNode_reads idx _ s).keeps_of_eq h
  | cbDrv =>
    exact require_sat h fun _ => (deriveCodebook_keeps hP.codebook h).bind fun _ _ ht => ht
  | encSym k sym =>
    exact require_sat h fun _ => thenLen_keeps (encodeSymbol_keeps (hP.bits k) h sym none) k
  | encRun k => exact encodeRun_keeps hP.tree hP.table hP.codebook (hP.bits k) (hP.cur k) h
  | decRst => exact require_sat h fun _ => hP.tree s _ rfl h
  | decBit v =>
    exact require_sat h fun _ =>
      decodeOperand_keeps (fun s w d => hP.tree s { s with walk := w, dpos := d } rfl) h v
  | decEnd => exact require_sat h fun _ => ((checkEnd_reads s).keeps_of_eq h).bind fun _ _ ht => ht
  | decRun k => exact decodeRun_keeps hP.tree hP.txt h k
  | czWr k => exact writeFile_keeps hP.buf h k
  | czRd k => exact readFile_keeps hP.table (hP.bits k) (hP.cur k) h

theorem record_writeStable (s₀ : State) : WriteStable fun s => s.record = s₀.record where
  buf _ _ h := h
  txt _ _ h := h
  bits k _ _ h := by cases k <;> exact h
  cur k _ _ h := by cases k <;> exact h
  table _ _ h := h
  codebook _ _ h := h
  tree _ _ hd h := (congrArg State.record hd :).trans h

/-- The answers of every word but SYS.RST: a command that completed, a fault it took, or the refusal of the
fault state. -/
inductive Answered (s : State) : State → Prop
  | completed (u : State) (v : Word) (hu : u.record = s.record) : Answered s (u.respond .ok v)
  | faulted (u : State) (k : FaultKind) (pos : Option Nat) (hf : s.fault = none)
      (hu : u.record = s.record) : Answered s ((u.raise k pos).respond (.fault k) 0#64)
  | refused (hf : s.fault ≠ none) : Answered s s.refuse

theorem command_answered {l : Bool} {body : State → Run Word} {s t : State}
    (hb : (body s).Keeps fun u => u.record = s.record) (h : command l body s = .next t) : Answered s t := by
  rcases command_next h with ⟨hf, rfl⟩ | ⟨hf, -, rfl⟩ | ⟨-, -, u, v, hu, rfl⟩ | ⟨hf, -, u, k, p, hu, rfl⟩
  · exact .refused hf
  · exact .faulted s _ _ hf rfl
  · rw [hu] at hb
    exact .completed u v hb
  · rw [hu] at hb
    exact .faulted u k p hf hb

theorem illegalWord_answered {s t : State} (h : illegalWord s = .next t) : Answered s t :=
  command_answered (body := fun u => .done u 0#64) (rfl : s.record = s.record) h

theorem exec_answered {i : Instr} {s t : State} (hrst : i ≠ .sysRst) (h : exec i s = .next t) :
    Answered s t := by
  by_cases hrd : ∃ r, i = .sysRd r
  · obtain ⟨r, rfl⟩ := hrd
    rcases exec_sysRd_cases r s with ⟨v, -, he⟩ | he <;> rw [he] at h
    · cases h
      exact .completed s v rfl
    · exact illegalWord_answered h
  · rw [exec_eq_command i s hrst (not_exists.mp hrd)] at h
    exact command_answered (pseudocode_keeps (record_writeStable s) hrst rfl) h

/-- A word is answered as SYS.RST is, if it is its word, or like any other. -/
theorem execWord_answered {w : Word} {s t : State} (h : execWord w s = .next t) :
    (w = encode .sysRst ∧ t = s.powerOn.respond .ok 0#64) ∨ Answered s t := by
  rw [execWord] at h
  cases hd : decode w with
  | error e => rw [hd] at h; exact .inr (illegalWord_answered h)
  | ok i =>
    rw [hd] at h
    by_cases hrst : i = .sysRst
    · subst hrst
      refine .inl ⟨(decode_eq_ok_iff.mp hd).symm, ?_⟩
      simpa [exec_sysRst] using h.symm
    · exact .inr (exec_answered hrst h)

theorem Status.code_range (st : Status) : st.code.toNat ≤ 7 ∨ st.code.toNat = 15 := by
  cases st with
  | ok => decide
  | fault k => cases k <;> decide
  | refused => decide

/-- Settles O13, from the three answers of a word that is not SYS.RST. -/
theorem everyWordAnsweredOnce : Obligations.EveryWordAnsweredOnce := by
  intro s t w rest hw h
  have hcmds : t.cmds = rest := by
    have hk := (step_kept h).1
    simpa [State.params, hw] using congrArg (fun p => p.2.2.2.2) hk
  refine ⟨hcmds, ?_⟩
  rw [step_of_cmds_cons hw] at h
  rcases execWord_answered h with ⟨rfl, rfl⟩ | ha
  · exact ⟨⟨.ok, 0#64⟩, rfl, Status.code_range _, .inl rfl⟩
  · cases ha with
    | completed u v hu =>
      obtain ⟨hf, hp, hv, ho⟩ := record_eq_iff.mp hu
      exact ⟨⟨.ok, v⟩, by simp [ho], Status.code_range _, .inr ⟨hf, hp, hv⟩⟩
    | faulted u k pos hf hu =>
      obtain ⟨-, -, -, ho⟩ := record_eq_iff.mp hu
      exact ⟨⟨.fault k, 0#64⟩, by simp [ho], Status.code_range _, hf, rfl, rfl⟩
    | refused hf => exact ⟨⟨.refused, 0#64⟩, rfl, Status.code_range _, hf, rfl, rfl⟩

end Sys2Proof.Machine

/-! ## The answer of a command from its pseudocode (60_exceptions.md R198, R199) -/

namespace Sys2Proof.Machine

/-- Outside the fault state a command with operands in range is its pseudocode (R199). -/
theorem exec_of_legal {i : Instr} {s : State} (hf : s.fault = none) (hrst : i ≠ .sysRst)
    (hl : i.wellFormed = true) : exec i s = (pseudocode i s).finish := by
  rw [exec_of_ok hf hrst, hl, require_true]

/-- Outside the fault state a command with an operand out of range is IllegalCommand (R196, R199 step 4). -/
theorem exec_of_illegal {i : Instr} {s : State} (hf : s.fault = none) (hl : i.wellFormed = false) :
    exec i s = faulted s .illegalCommand none := by
  have hrst : i ≠ .sysRst := by rintro rfl; cases hl
  rw [exec_of_ok hf hrst, hl]
  rfl

/-- A run that raises where `c` holds and completes elsewhere, as an answer (R73, R198). -/
theorem Run.finish_ite_raised_done {c : Prop} [Decidable c] (s t : State) (k : FaultKind) (v : Word) :
    (if c then .raised s k none else .done t v : Run Word).finish =
      if c then faulted s k none else answered t v := apply_ite Run.finish _ _ _

/-! ## The Frequency Table commands (40_frequency_table.md R91 to R95) -/

theorem countSymbol_of_unseen {s : State} {sym : Symbol} (h : ∀ e ∈ s.ft, e.sym ≠ sym) :
    countSymbol sym s =
      if s.ft.length = s.ftCap then .raised s .capacityExceeded none
      else .done (s.setTable (s.ft ++ [⟨sym, 1#32⟩])) (num s.ft.length) := by
  rw [countSymbol, findSym_eq_none.mpr h]

theorem findSym_eq_of_first {ft : List Entry} {i : Nat} {e : Entry} (hi : ft[i]? = some e)
    (hfirst : ∀ j < i, ∀ x, ft[j]? = some x → x.sym ≠ e.sym) : findSym ft e.sym = some i := by
  obtain ⟨hlt, hget⟩ := List.getElem?_eq_some_iff.mp hi
  exact findSym_eq_some.mpr ⟨hlt, by rw [hget], fun j hj => hfirst j hj _ (List.getElem?_eq_getElem _)⟩

/-- The count is compared and incremented as a 32-bit word, which does not wrap below the greatest one. -/
theorem countSymbol_of_first {s : State} {i : Nat} {e : Entry} (hi : s.ft[i]? = some e)
    (hfirst : ∀ j < i, ∀ x, s.ft[j]? = some x → x.sym ≠ e.sym) :
    countSymbol e.sym s =
      if e.cnt.toNat = 2 ^ 32 - 1 then .raised s .capacityExceeded none
      else .done (s.setTable (s.ft.set i ⟨e.sym, BitVec.ofNat 32 (e.cnt.toNat + 1)⟩)) (num i) := by
  have hmax : (e.cnt == 0xFFFFFFFF#32) = true ↔ e.cnt.toNat = 2 ^ 32 - 1 := by
    rw [beq_iff_eq, ← BitVec.toNat_inj]
    rfl
  have hadd : e.cnt + 1#32 = BitVec.ofNat 32 (e.cnt.toNat + 1) := by simp [BitVec.ofNat_add]
  rw [countSymbol, findSym_eq_of_first hi hfirst]
  simp only [List.getD, hi, Option.getD_some, hmax, hadd]

theorem finish_readEntry_of_some {s : State} {idx : Word32} {e : Entry} (h : s.ft[idx.toNat]? = some e)
    (f : Entry → Word) : (readEntry idx f s).finish = answered s (f e) := by
  rw [readEntry, h]
  rfl

theorem finish_readEntry_of_le {s : State} {idx : Word32} (h : s.ft.length ≤ idx.toNat) (f : Entry → Word) :
    (readEntry idx f s).finish = faulted s .illegalCommand none := by
  rw [readEntry, List.getElem?_eq_none h]
  rfl

theorem exec_ftCnt {s : State} {sym : Symbol} (hf : s.fault = none) (hsym : isScalar sym = true) :
    exec (.ftCnt sym) s = (countSymbol sym s).finish := exec_of_legal hf nofun hsym

theorem exec_ftClr {s : State} (hf : s.fault = none) : exec .ftClr s = answered (s.newTable []) 0#64 :=
  exec_of_legal hf nofun rfl

/-- Settles O20, by whether the table holds the symbol. -/
theorem countSymbolEffect : Obligations.CountSymbolEffect := by
  refine ⟨fun _ => rfl, fun s sym hf =>
    ⟨exec_of_illegal (i := .ftCnt sym) hf, fun hsym hunseen => ?_, ?_⟩⟩
  · rw [exec_ftCnt hf hsym, countSymbol_of_unseen hunseen]
    exact Run.finish_ite_raised_done ..
  · rintro i e hsym hi rfl hfirst
    rw [exec_ftCnt hf hsym, countSymbol_of_first hi hfirst]
    exact Run.finish_ite_raised_done ..

/-- Settles O21, from the order of checks and the append of an entry. -/
theorem putAndClearTable : Obligations.PutAndClearTable := by
  refine ⟨fun _ _ => rfl, rfl, fun s hf => ⟨fun sym v => ?_, exec_ftClr hf⟩⟩
  have hlegal : (Instr.ftPut sym v).wellFormed = false ↔ isScalar sym = false ∨ v = 0#32 := by
    simp [Instr.wellFormed, freqLegal, imp_iff_not_or]
  by_cases hl : isScalar sym = false ∨ v = 0#32
  · rw [if_pos hl, exec_of_illegal hf (hlegal.mpr hl)]
  · have hwf : (Instr.ftPut sym v).wellFormed = true := Bool.eq_true_of_not_eq_false (hl ∘ hlegal.mp)
    rw [if_neg hl, exec_of_legal (i := .ftPut sym v) hf nofun hwf]
    exact Run.finish_ite_raised_done ..

/-- Settles O22, from the two cases of a read of the table. -/
theorem readTableEntry : Obligations.ReadTableEntry := by
  refine ⟨fun _ => ⟨rfl, rfl⟩, fun s idx hf => ?_⟩
  have hsym : exec (.ftSym idx) s = (readEntry idx (fun e => e.sym.setWidth 64) s).finish :=
    exec_of_legal (i := .ftSym idx) hf nofun rfl
  have hfrq : exec (.ftFrq idx) s = (readEntry idx (fun e => e.cnt.setWidth 64) s).finish :=
    exec_of_legal (i := .ftFrq idx) hf nofun rfl
  rw [hsym, hfrq]
  refine ⟨fun e he => ?_, fun hle => ⟨finish_readEntry_of_le hle _, finish_readEntry_of_le hle _⟩⟩
  rw [finish_readEntry_of_some he, finish_readEntry_of_some he, ← BitVec.ofNat_toNat, ← BitVec.ofNat_toNat]
  exact ⟨rfl, rfl⟩

/-! ## The table of a text (40_frequency_table.md R96)

Everything is by induction on the text from its end: one character more, as FT.CNT counts it. -/

theorem distinct_concat (text : List Symbol) (c : Symbol) :
    distinct (text ++ [c]) = if c ∈ distinct text then distinct text else distinct text ++ [c] := by
  rw [distinct, List.foldl_append]
  rfl

theorem mem_distinct {text : List Symbol} {c : Symbol} : c ∈ distinct text ↔ c ∈ text := by
  induction text using List.reverseRecOn with
  | nil => rfl
  | append_singleton text d ih =>
    rw [distinct_concat]
    split
    · next hd =>
      have hc : c = d → c ∈ text := by
        rintro rfl
        exact ih.mp hd
      simp [ih, or_iff_left_of_imp hc]
    · simp [ih]

theorem distinct_nodup (text : List Symbol) : (distinct text).Nodup := by
  induction text using List.reverseRecOn with
  | nil => exact List.nodup_nil
  | append_singleton text d ih =>
    rw [distinct_concat]
    split
    · exact ih
    · next hd => exact List.concat_eq_append ▸ ih.concat hd

theorem distinct_length_le_concat (text : List Symbol) (c : Symbol) :
    (distinct text).length ≤ (distinct (text ++ [c])).length := by
  rw [distinct_concat]
  split <;> simp

/-- The distinct symbols stand in the order of their first positions. -/
theorem distinct_pairwise_idxOf (text : List Symbol) :
    (distinct text).Pairwise fun a b => text.idxOf a < text.idxOf b := by
  induction text using List.reverseRecOn with
  | nil => exact .nil
  | append_singleton text d ih =>
    have hold : ∀ a ∈ distinct text, (text ++ [d]).idxOf a = text.idxOf a := fun a ha =>
      List.idxOf_append_of_mem (mem_distinct.mp ha)
    have hpair : (distinct text).Pairwise fun a b => (text ++ [d]).idxOf a < (text ++ [d]).idxOf b :=
      ih.imp_of_mem fun ha hb hlt => by rwa [hold _ ha, hold _ hb]
    rw [distinct_concat]
    split
    · exact hpair
    · next hd =>
      have hnew : ∀ a ∈ distinct text, (text ++ [d]).idxOf a < (text ++ [d]).idxOf d := by
        intro a ha
        rw [hold a ha, List.idxOf_append_of_notMem (mt mem_distinct.mpr hd)]
        exact Nat.lt_add_right _ (List.idxOf_lt_length_iff.mpr (mem_distinct.mp ha))
      simpa [List.pairwise_append] using ⟨hpair, hnew⟩

/-- The distinct symbols are those of the library's `dedup`, in another order. -/
theorem distinct_perm_dedup (text : List Symbol) : (distinct text).Perm text.dedup :=
  (List.perm_ext_iff_of_nodup (distinct_nodup text) text.nodup_dedup).mpr fun c => by
    rw [mem_distinct, List.mem_dedup]

/-- The entry of a symbol in the table of a text. -/
def entryIn (text : List Symbol) (c : Symbol) : Entry := ⟨c, BitVec.ofNat 32 (text.count c)⟩

theorem countedTable_eq (text : List Symbol) : countedTable text = (distinct text).map (entryIn text) := rfl

theorem countedTable_map_sym (text : List Symbol) : (countedTable text).map Entry.sym = distinct text := by
  simp [countedTable, Function.comp_def]

/-- A count of a text within the capacity of a 32-bit length fits its word. -/
theorem entryIn_cnt_toNat {text : List Symbol} (hlen : text.length ≤ Config.lenCapMax) (c : Symbol) :
    (entryIn text c).cnt.toNat = text.count c := by
  have hle : text.count c ≤ 4294967295 := List.count_le_length.trans hlen
  exact Nat.mod_eq_of_lt (by omega)

/-- One more character changes its own entry alone. -/
theorem entryIn_concat (text : List Symbol) (c : Symbol) :
    entryIn (text ++ [c]) = Function.update (entryIn text) c ⟨c, BitVec.ofNat 32 (text.count c + 1)⟩ := by
  funext d
  by_cases hd : d = c
  · subst hd
    simp [entryIn]
  · simp [entryIn, hd, Ne.symm hd]

theorem countedTable_concat_seen {text : List Symbol} {c : Symbol} (hc : c ∈ distinct text) :
    countedTable (text ++ [c]) = (countedTable text).set ((distinct text).idxOf c)
      ⟨c, BitVec.ofNat 32 (text.count c + 1)⟩ := by
  rw [countedTable_eq, distinct_concat, if_pos hc, entryIn_concat, (distinct_nodup text).map_update,
    if_pos hc, countedTable_eq]

theorem countedTable_concat_unseen {text : List Symbol} {c : Symbol} (hc : c ∉ distinct text) :
    countedTable (text ++ [c]) = countedTable text ++ [⟨c, 1#32⟩] := by
  have hzero : text.count c = 0 := List.count_eq_zero_of_not_mem (mt mem_distinct.mpr hc)
  rw [countedTable_eq, distinct_concat, if_neg hc, entryIn_concat, List.map_append,
    (distinct_nodup text).map_update, if_neg hc, countedTable_eq]
  simp [hzero]

theorem totalCount_countedTable {text : List Symbol} (hlen : text.length ≤ Config.lenCapMax) :
    totalCount (countedTable text) = text.length :=
  calc totalCount (countedTable text)
      = ((distinct text).map fun c => text.count c).sum := by
        simp [totalCount, countedTable_eq, Function.comp_def, entryIn_cnt_toNat hlen]
    _ = (text.dedup.map fun c => text.count c).sum := ((distinct_perm_dedup text).map _).sum_eq
    _ = text.length := List.sum_map_count_dedup_eq_length text

/-- Counting the next character of a text turns the table of the text so far into that of the longer one
(R91, R96). -/
theorem countSymbol_countedTable {s : State} {text : List Symbol} {c : Symbol}
    (hft : s.ft = countedTable text) (hcap : (distinct (text ++ [c])).length ≤ s.ftCap)
    (hlen : (text ++ [c]).length ≤ Config.lenCapMax) :
    ∃ v, countSymbol c s = .done (s.setTable (countedTable (text ++ [c]))) v := by
  rw [List.length_append, List.length_singleton] at hlen
  by_cases hc : c ∈ distinct text
  · have hi : s.ft[(distinct text).idxOf c]? = some (entryIn text c) := by
      simp [hft, countedTable_eq, List.getElem?_idxOf hc]
    have hfirst : ∀ j < (distinct text).idxOf c, ∀ x, s.ft[j]? = some x → x.sym ≠ c := by
      intro j hj x hx
      obtain ⟨d, hd, rfl⟩ : ∃ d, (distinct text)[j]? = some d ∧ entryIn text d = x := by
        simpa [hft, countedTable_eq] using hx
      obtain ⟨hlt, rfl⟩ := List.getElem?_eq_some_iff.mp hd
      rintro rfl
      exact hj.ne ((distinct_nodup text).idxOf_getElem j hlt).symm
    have hcnt := entryIn_cnt_toNat (Nat.le_of_succ_le hlen) c
    have hmax : text.count c ≠ 2 ^ 32 - 1 := by
      have := List.count_le_length (a := c) (l := text)
      rw [Config.lenCapMax] at hlen
      omega
    refine ⟨num ((distinct text).idxOf c), (countSymbol_of_first hi hfirst).trans ?_⟩
    rw [hcnt, if_neg hmax, hft, countedTable_concat_seen hc]
    rfl
  · have hunseen : ∀ e ∈ s.ft, e.sym ≠ c := by
      rintro e he rfl
      rw [hft] at he
      exact hc (countedTable_map_sym text ▸ List.mem_map_of_mem he)
    have hroom : s.ft.length ≠ s.ftCap := by
      rw [distinct_concat, if_neg hc, List.length_append, List.length_singleton] at hcap
      rw [hft, countedTable, List.length_map]
      omega
    refine ⟨num s.ft.length, ?_⟩
    rw [countSymbol_of_unseen hunseen, if_neg hroom, hft, countedTable_concat_unseen hc]

theorem exec_ftCnt_countedTable {s : State} {text : List Symbol} {c : Symbol} (hf : s.fault = none)
    (hsym : isScalar c = true) (hft : s.ft = countedTable text)
    (hcap : (distinct (text ++ [c])).length ≤ s.ftCap) (hlen : (text ++ [c]).length ≤ Config.lenCapMax) :
    ∃ v, exec (.ftCnt c) s = answered (s.newTable (countedTable (text ++ [c]))) v := by
  obtain ⟨v, hv⟩ := countSymbol_countedTable hft hcap hlen
  exact ⟨v, by rw [exec_ftCnt hf hsym, hv]; rfl⟩

/-- One command more at the end of a sequence (R60). -/
theorem execSeq_concat {is : List Instr} {i : Instr} {s t u : State} (h : execSeq is s = .next t)
    (hi : exec i t = .next u) : execSeq (is ++ [i]) s = .next u := by
  induction is generalizing s with
  | nil =>
    cases h
    rw [List.nil_append, execSeq, hi]
    rfl
  | cons j is ih =>
    rw [execSeq] at h
    rw [List.cons_append, execSeq]
    cases hj : exec j s with
    | next r => exact ih (by rwa [hj] at h)
    | fault f => rw [hj] at h; cases h
    | refused r => rw [hj] at h; cases h

/-- FT.CLR and one FT.CNT for each character of a text that fits (R96). -/
theorem execSeq_countedTable {s : State} {text : List Symbol} (hf : s.fault = none)
    (hsym : ∀ c ∈ text, isScalar c = true) (hcap : (distinct text).length ≤ s.ftCap)
    (hlen : text.length ≤ Config.lenCapMax) :
    ∃ log : List Response, log.length = text.length + 1 ∧ (∀ r ∈ log, r.st = .ok) ∧
      execSeq (.ftClr :: text.map .ftCnt) s =
        .next { s.newTable (countedTable text) with out := s.out ++ log } := by
  induction text using List.reverseRecOn with
  | nil =>
    refine ⟨[⟨.ok, 0#64⟩], rfl, by simp, ?_⟩
    rw [List.map_nil, execSeq, exec_ftClr hf]
    rfl
  | append_singleton text c ih =>
    obtain ⟨log, hlog, hok, hrun⟩ := ih (fun d hd => hsym d (List.mem_append_left _ hd))
      ((distinct_length_le_concat text c).trans hcap) (by simp at hlen; omega)
    obtain ⟨v, hv⟩ := exec_ftCnt_countedTable
      (s := { s.newTable (countedTable text) with out := s.out ++ log }) hf (hsym c (by simp)) rfl hcap hlen
    refine ⟨log ++ [⟨.ok, v⟩], by simp [hlog], by simpa [or_imp, forall_and] using hok, ?_⟩
    rw [List.map_append, ← List.append_assoc]
    exact execSeq_concat hrun hv

/-- Settles O23, from the table each FT.CNT leaves and the order and the counts of that table. -/
theorem countedTableOfText : Obligations.CountedTableOfText := by
  intro s text hf hsym hcap hlen
  have hcount : ∀ e ∈ countedTable text, e.cnt.toNat = text.count e.sym := by
    intro e he
    obtain ⟨c, -, rfl⟩ := List.mem_map.mp he
    exact entryIn_cnt_toNat hlen c
  exact ⟨execSeq_countedTable hf (List.all_eq_true.mp hsym) hcap hlen, countedTable_map_sym text,
    distinct_nodup text, fun _ => mem_distinct, distinct_pairwise_idxOf text, hcount,
    totalCount_countedTable hlen⟩

end Sys2Proof.Machine

/-! ## The byte-level append (41_bit_stream.md R100) -/

namespace Sys2Proof.Machine

/-- A new byte 0x00 adds no stream bit that reads 1. -/
theorem byteBit_concat_zero (B : List Byte) (i : Nat) : byteBit (B ++ [0#8]) i = byteBit B i := by
  have hget : (B ++ [0#8]).getD (i / 8) 0#8 = B.getD (i / 8) 0#8 := by
    rcases lt_or_ge (i / 8) B.length with h | h
    · exact List.getD_append _ _ _ _ h
    · rw [List.getD_append_right _ _ _ _ h, List.getD_eq_default _ _ h]
      cases i / 8 - B.length <;> rfl
  rw [byteBit, hget, byteBit]

/-- The byte that `append_bit` ORs into byte `LEN / 8` has its one bit at word-bit `7 - LEN % 8`. -/
theorem getLsbD_orBit (v : Bool) {n i : Nat} (hi : i < 8) :
    ((if v then 1#8 else 0#8) <<< n).getLsbD i = (decide (i = n) && v) := by
  cases v
  · simp
  · rw [Bool.eq_iff_iff]
    simp [hi]
    omega

/-- Bytes with a bit ORed in at stream bit `n`. -/
theorem byteBit_set_or (B : List Byte) {n : Nat} (v : Bool) (hn : n / 8 < B.length) (i : Nat) :
    byteBit (B.set (n / 8) (B.getD (n / 8) 0#8 ||| (if v then 1#8 else 0#8) <<< (7 - n % 8))) i =
      (byteBit B i || (decide (i = n) && v)) := by
  by_cases hk : i / 8 = n / 8
  · have hpos : 7 - i % 8 = 7 - n % 8 ↔ i = n := by omega
    simp only [byteBit, List.getD_eq_getElem?_getD, hk, List.getElem?_set_self hn, Option.getD_some,
      BitVec.getLsbD_or, getLsbD_orBit v (show 7 - i % 8 < 8 by omega), hpos]
  · have hne : i ≠ n := by
      rintro rfl
      exact hk rfl
    simp [byteBit, Ne.symm hk, hne]

/-- A bit appended to a sequence is the one at its length. -/
theorem getD_concat (b : Bits) (v : Bool) (i : Nat) :
    (b ++ [v]).getD i false = (b.getD i false || (decide (i = b.length) && v)) := by
  rcases lt_trichotomy i b.length with h | rfl | h
  · simp [List.getElem?_append_left h, h.ne]
  · simp
  · simp [List.getElem?_append_right h.le, h.le, h.ne', show i - b.length ≠ 0 by omega]

/-- `append_bit` on the packed bytes packs the longer sequence (R100). -/
theorem appendBytes_pack (b : Bits) (v : Bool) :
    appendBytes (pack b) b.length v = (pack (b ++ [v]), (b ++ [v]).length) := by
  rw [appendBytes, List.length_append, List.length_singleton]
  refine Prod.ext ?_ rfl
  dsimp only
  generalize hB : (if b.length % 8 = 0 then pack b ++ [0#8] else pack b) = B
  have hlen : B.length = ceil8 (b.length + 1) := by
    subst hB
    split_ifs <;> simp [ceil8] <;> omega
  have hbits : ∀ i, byteBit B i = b.getD i false := by
    intro i
    subst hB
    split_ifs
    · rw [byteBit_concat_zero, byteBit_pack]
    · exact byteBit_pack b i
  have hk : b.length / 8 < B.length := by rw [hlen, ceil8]; omega
  refine bytes_ext (by simp [hlen]) fun i _ => ?_
  rw [byteBit_set_or B v hk, hbits, byteBit_pack, getD_concat]

/-- Settles O29: the two byte sequences have the same length and the same stream bits. -/
theorem byteAppendRefines : Obligations.ByteAppendRefines := ⟨appendBytes_pack, fun _ _ _ => rfl⟩

end Sys2Proof.Machine

/-! ## The Bit Stream commands (41_bit_stream.md R101 to R112) -/

namespace Sys2Proof.Machine

theorem Run.finish_raised_eq_faulted (s : State) (f : FaultKind) (pos : Option Nat) :
    (Run.raised s f pos : Run Word).finish = faulted s f pos := by cases pos <;> rfl

/-- A run that ends in `RES <- LEN[s]`, as an answer (R73). -/
theorem finish_thenLen_done (k : Slot) (t : State) :
    (thenLen k (.done t ())).finish = answered t (value (t.bits k).length) := rfl

/-- `State.loadSlot` of the statements, as the two writes of R101 and R106. -/
theorem State.loadSlot_eq (s : State) (k : Slot) (b : Bits) :
    s.loadSlot k b = (s.setBits k b).setCur k 0 := by cases k <;> rfl

theorem answered_inj {s : State} {v w : Word} : answered s v = answered s w ↔ v = w := by simp

theorem finish_thenLen_appendBit (k : Slot) (v : Bool) (s : State) :
    (thenLen k (appendBit k v s)).finish =
      if (s.bits k).length = s.bsCap then faulted s .capacityExceeded none
      else answered (s.setBits k (s.bits k ++ [v])) (value ((s.bits k).length + 1)) := by
  rcases appendBit_cases k v s with ⟨hfull, e⟩ | ⟨hroom, e⟩ <;> rw [e]
  · exact (Run.finish_raised_eq_faulted ..).trans (if_pos hfull).symm
  · rw [if_neg (State.len_eq s k ▸ hroom), finish_thenLen_done, State.bits_setBits, if_pos rfl,
      List.length_append, List.length_singleton]

theorem finish_fromBytes (k : Slot) (B : List Byte) (n : Nat) (pos : Option Nat) (s : State) :
    (thenLen k (fromBytes k B n pos s)).finish =
      if B.length ≠ ceil8 n then faulted s .corruptStream pos
      else if n > s.bsCap then faulted s .capacityExceeded none
      else answered (s.loadSlot k (unpack B n)) (value n) := by
  rcases fromBytes_cases k B n pos s with ⟨hB, e⟩ | ⟨hB, hn, e⟩ | ⟨hB, hn, e⟩ <;> rw [e]
  · rw [if_pos hB]
    exact Run.finish_raised_eq_faulted ..
  · rw [if_neg (not_not.mpr hB), if_pos hn]
    exact Run.finish_raised_eq_faulted ..
  · rw [if_neg (not_not.mpr hB), if_neg (not_lt.mpr hn), ← State.loadSlot_eq, finish_thenLen_done,
      State.loadSlot_eq, State.bits_setCur, State.bits_setBits, if_pos rfl, unpack_length]

section

variable {s : State} {k : Slot} (hf : s.fault = none)
include hf

/-! ### BS.APP and BS.EXT (R102, R103) -/

theorem exec_bsApp (v : Word32) : exec (.bsApp k v) s =
    if v.toNat > 1 then faulted s .invalidBit (some (s.bits k).length)
    else if (s.bits k).length = s.bsCap then faulted s .capacityExceeded none
    else answered (s.setBits k (s.bits k ++ [v == 1#32])) (value ((s.bits k).length + 1)) := by
  have hone : (v.toNat == 1) = (v == 1#32) := by
    rw [Bool.eq_iff_iff, beq_iff_eq, beq_iff_eq, ← BitVec.toNat_inj]
    rfl
  refine (exec_of_legal (i := .bsApp k v) hf nofun rfl).trans ?_
  rw [pseudocode, appendOperand, bitOperand]
  by_cases hv : v.toNat > 1
  · rw [if_pos hv, if_pos hv]
    exact Run.finish_raised_eq_faulted ..
  · rw [if_neg hv, if_neg hv, hone]
    exact finish_thenLen_appendBit ..

theorem exec_bsExt {j : Slot} (hne : k ≠ j) :
    exec (.bsExt k j) s = (thenLen k (appendBits k (s.bits j) s)).finish :=
  exec_of_legal hf nofun (by simpa [Instr.wellFormed, slotsDiffer] using hne)

/-! ### BS.GET (R104) -/

theorem exec_bsGet_of_le {idx : Word32} (h : (s.bits k).length ≤ idx.toNat) :
    exec (.bsGet k idx) s = faulted s .indexOutOfRange (some idx.toNat) := by
  refine (exec_of_legal (i := .bsGet k idx) hf nofun rfl).trans ?_
  rw [pseudocode, getBit, List.getElem?_eq_none h]
  rfl

theorem exec_bsGet_of_some {idx : Word32} {b : Bool} (h : (s.bits k)[idx.toNat]? = some b) :
    exec (.bsGet k idx) s = answered s (value (bitNumber b)) := by
  refine (exec_of_legal (i := .bsGet k idx) hf nofun rfl).trans ?_
  rw [pseudocode, getBit, h]
  cases b <;> rfl

/-! ### BS.TOB, BS.FRB and BS.FRBA (R105 to R108) -/

theorem exec_bsTob : exec (.bsTob k) s =
    if ceil8 (s.bits k).length > s.bufCap then faulted s .capacityExceeded none
    else answered { s with buf := pack (s.bits k) } (value (s.bits k).length) :=
  (exec_of_legal (i := .bsTob k) hf nofun rfl).trans (Run.finish_ite_raised_done ..)

theorem exec_bsFrb (v : Word32) : exec (.bsFrb k v) s =
    if s.buf.length ≠ ceil8 v.toNat then faulted s .corruptStream none
    else if v.toNat > s.bsCap then faulted s .capacityExceeded none
    else answered (s.loadSlot k (unpack s.buf v.toNat)) (value v.toNat) :=
  (exec_of_legal (i := .bsFrb k v) hf nofun rfl).trans (finish_fromBytes ..)

/-- The byte count of BS.FRBA is never wrong: the bit length is eight times `BUFLEN`. -/
theorem exec_bsFrba : exec (.bsFrba k) s =
    if 8 * s.buf.length > s.bsCap then faulted s .capacityExceeded none
    else answered (s.loadSlot k (unpack s.buf (8 * s.buf.length))) (value (8 * s.buf.length)) := by
  have hbytes : s.buf.length = ceil8 (8 * s.buf.length) := by rw [ceil8]; omega
  exact ((exec_of_legal (i := .bsFrba k) hf nofun rfl).trans (finish_fromBytes ..)).trans
    (if_neg (not_not.mpr hbytes))

/-! ### BS.EQ and BS.HASH (R109, R110) -/

theorem exec_bsEq_of_eq {j : Slot} (h : s.bits k = s.bits j) : exec (.bsEq k j) s = answered s 1#64 := by
  refine (exec_of_legal (i := .bsEq k j) hf nofun rfl).trans ?_
  rw [pseudocode, h, beq_self_eq_true]
  rfl

theorem exec_bsEq_of_ne {j : Slot} (h : s.bits k ≠ s.bits j) : exec (.bsEq k j) s = answered s 0#64 := by
  refine (exec_of_legal (i := .bsEq k j) hf nofun rfl).trans ?_
  rw [pseudocode, beq_false_of_ne h]
  rfl

theorem exec_bsHash : exec (.bsHash k) s = answered s (Config.hashFn (s.bits k)) :=
  exec_of_legal hf nofun rfl

/-! ### BS.CLR, BS.RWD and BS.NXT (R101, R111, R112) -/

theorem exec_bsClr : exec (.bsClr k) s = answered (s.loadSlot k []) 0#64 := by
  rw [State.loadSlot_eq]
  exact exec_of_legal hf nofun rfl

theorem exec_bsRwd : exec (.bsRwd k) s = answered (s.setCur k 0) 0#64 := exec_of_legal hf nofun rfl

theorem exec_bsNxt_of_some {b : Bool} (h : (s.bits k)[s.cur k]? = some b) :
    exec (.bsNxt k) s = answered (s.setCur k (s.cur k + 1)) (value (2 ^ 32 + bitNumber b)) := by
  refine (exec_of_legal (i := .bsNxt k) hf nofun rfl).trans ?_
  rw [pseudocode, nextBit, h]
  cases b <;> rfl

theorem exec_bsNxt_of_le (h : (s.bits k).length ≤ s.cur k) : exec (.bsNxt k) s = answered s 0#64 := by
  refine (exec_of_legal (i := .bsNxt k) hf nofun rfl).trans ?_
  rw [pseudocode, nextBit, List.getElem?_eq_none h]
  rfl

end

end Sys2Proof.Machine

namespace Sys2Proof.Machine

/-! ### The obligations of one command (41_bit_stream.md R101 to R112) -/

/-- Settles O25, from the append that fits and the one that fills the slot. -/
theorem extendEffect : Obligations.ExtendEffect := by
  refine ⟨fun _ _ => rfl, fun s k j hf => ⟨?_, fun hne hfit => ?_, fun hne hcap hover => ?_⟩⟩
  · rintro rfl
    exact exec_of_illegal hf (by simp [Instr.wellFormed, slotsDiffer])
  · rw [exec_bsExt hf hne, appendBits_done k _ s hfit, finish_thenLen_done, State.bits_setBits, if_pos rfl,
      List.length_append]
  · have htake : (s.bits k ++ s.bits j).take s.bsCap =
        s.bits k ++ (s.bits j).take (s.bsCap - (s.bits k).length) := by
      rw [List.take_append, List.take_of_length_le hcap]
    rw [exec_bsExt hf hne, appendBits_raised k _ s hcap hover, htake]
    exact Run.finish_raised_eq_faulted ..

/-- A bit of a sequence stands at bit `7 - i % 8` of byte `i / 8` of its bytes (R54). -/
theorem getElem?_eq_packByte_getLsbD {b : Bits} {i : Nat} (h : i < b.length) :
    b[i]? = some ((packByte b (i / 8)).getLsbD (7 - i % 8)) := by
  have hi : 8 * (i / 8) + (7 - (7 - i % 8)) = i := by omega
  rw [packByte_getLsbD _ _ (by omega), hi]
  simp [h]

theorem bitNumber_getLsbD (x : Byte) (i : Nat) : bitNumber (x.getLsbD i) = x.toNat / 2 ^ i % 2 := by
  rw [byte_getLsbD_eq]
  rcases Nat.mod_two_eq_zero_or_one (x.toNat / 2 ^ i) with h | h <;> rw [h] <;> rfl

/-- Settles O26: the packed byte holds the stream's bit where R104 reads it. -/
theorem getBitEffect : Obligations.GetBitEffect := by
  refine ⟨fun _ _ => rfl, fun s k idx hf => ⟨exec_bsGet_of_le hf, fun hlt => ?_⟩⟩
  have hbit := getElem?_eq_packByte_getLsbD hlt
  refine ⟨_, pack_getElem? (s.bits k) (by rw [ceil8]; omega), ?_, by rw [hbit, byte_getLsbD_eq]⟩
  rw [exec_bsGet_of_some hf hbit, bitNumber_getLsbD]

/-- Settles O24, from the order of checks of R102: the operand, then the capacity. -/
theorem appendBitEffect : Obligations.AppendBitEffect := ⟨fun _ _ => rfl, fun _ _ v hf => exec_bsApp hf v⟩

/-- Settles O27: both loads are `from_bytes`, for BS.FRBA with a byte count that is never wrong. -/
theorem streamBytesEffect : Obligations.StreamBytesEffect :=
  ⟨fun _ _ => ⟨rfl, rfl, rfl⟩, fun _ _ hf => ⟨exec_bsTob hf, exec_bsFrb hf, exec_bsFrba hf⟩⟩

/-- Equality of streams as R109 says it: equal length and equal bits at every index. -/
theorem bits_eq_iff {a b : Bits} : a = b ↔ a.length = b.length ∧ ∀ i < a.length, a[i]? = b[i]? := by
  refine ⟨fun h => h ▸ ⟨rfl, fun _ _ => rfl⟩, fun ⟨hlen, hbits⟩ => List.ext_getElem? fun i => ?_⟩
  rcases lt_or_ge i a.length with h | h
  · exact hbits i h
  · rw [List.getElem?_eq_none h, List.getElem?_eq_none (hlen ▸ h)]

/-- Settles O30: BS.EQ decides equality of the two bit sequences, of which BS.HASH is a function. -/
theorem equalityAndHash : Obligations.EqualityAndHash := by
  refine ⟨fun _ _ => ⟨rfl, rfl⟩, fun s k j hf => ?_⟩
  rw [← bits_eq_iff]
  refine ⟨exec_bsEq_of_eq hf, exec_bsEq_of_ne hf, exec_bsHash hf, fun h => ?_⟩
  have heq : s.bits k = s.bits j := by
    by_contra hne
    rw [exec_bsEq_of_ne hf hne, answered_inj] at h
    exact absurd h (by decide)
  exact ⟨_, exec_bsHash hf, heq ▸ exec_bsHash hf⟩

/-- Settles O31, from the answer of each command; BS.NXT has one where there is a bit and one at the end. -/
theorem clearRewindNext : Obligations.ClearRewindNext :=
  ⟨fun _ => ⟨rfl, rfl, rfl⟩, fun _ _ hf =>
    ⟨exec_bsClr hf, exec_bsRwd hf, fun _ => exec_bsNxt_of_some hf, exec_bsNxt_of_le hf⟩⟩

end Sys2Proof.Machine

namespace Sys2Proof.Machine

/-! ## Iteration (41_bit_stream.md R112) -/

/-- The responses of BS.NXT to these bits (R74, R112). -/
def bitResponses (b : Bits) : List Response := b.map fun v => ⟨.ok, value (2 ^ 32 + bitNumber v)⟩

theorem bitResponses_take_succ {b : Bits} {m : Nat} {v : Bool} (h : b[m]? = some v) :
    bitResponses (b.take (m + 1)) = bitResponses (b.take m) ++ [⟨.ok, value (2 ^ 32 + bitNumber v)⟩] := by
  rw [List.take_add_one, h]
  exact List.map_append

/-- A state in the middle of an iteration: the cursor of the slot moved, and responses given. -/
def State.iterating (s : State) (k : Slot) (m : Nat) (log : List Response) : State :=
  { s.setCur k m with out := s.out ++ log }

section

variable (s : State) (k : Slot) (m n : Nat) (log : List Response)

@[simp] theorem State.iterating_fault : (s.iterating k m log).fault = s.fault := State.setCur_fault s k m

@[simp] theorem State.iterating_bits : (s.iterating k m log).bits k = s.bits k := by cases k <;> rfl

@[simp] theorem State.iterating_cur : (s.iterating k m log).cur k = m := by cases k <;> rfl

theorem State.answered_iterating_setCur (v : Word) :
    answered ((s.iterating k m log).setCur k n) v = .next (s.iterating k n (log ++ [⟨.ok, v⟩])) := by
  cases k <;> simp [iterating, setCur]

theorem State.answered_iterating (v : Word) :
    answered (s.iterating k m log) v = .next (s.iterating k m (log ++ [⟨.ok, v⟩])) := by
  simp [iterating]

end

/-- BS.RWD and `m` BS.NXT, as many as the slot has bits (R111, R112). -/
theorem execSeq_bsNxt {s : State} (hf : s.fault = none) (k : Slot) {m : Nat} (hm : m ≤ (s.bits k).length) :
    execSeq (.bsRwd k :: List.replicate m (.bsNxt k)) s =
      .next (s.iterating k m (⟨.ok, 0#64⟩ :: bitResponses ((s.bits k).take m))) := by
  induction m with
  | zero =>
    rw [List.replicate_zero, execSeq, exec_bsRwd hf]
    cases k <;> rfl
  | succ m ih =>
    have hbit : (s.bits k)[m]? = some (s.bits k)[m] := List.getElem?_eq_getElem hm
    rw [List.replicate_succ', ← List.cons_append]
    refine execSeq_concat (ih (Nat.le_of_succ_le hm)) ?_
    rw [exec_bsNxt_of_some (by simpa using hf)
      (by rwa [State.iterating_bits, State.iterating_cur]), State.iterating_cur,
      State.answered_iterating_setCur, bitResponses_take_succ hbit, List.cons_append]

/-- Settles O32, by the number of BS.NXT; the last one finds the cursor at the end. -/
theorem iterationYieldsStream : Obligations.IterationYieldsStream := by
  intro s k hf
  rw [List.replicate_succ', ← List.cons_append]
  refine execSeq_concat (execSeq_bsNxt hf k le_rfl) ?_
  rw [exec_bsNxt_of_le (by simpa using hf) (by simp), State.answered_iterating, List.take_length]
  simp [State.iterating, bitResponses]

/-! ## Serialization (41_bit_stream.md R113) -/

theorem execSeq_cons_of_next {i : Instr} {is : List Instr} {s t : State} (h : exec i s = .next t) :
    execSeq (i :: is) s = execSeq is t := by rw [execSeq, h]

/-- BS.TOB of a slot that `BUF` can hold: the bytes stand in `BUF` and the slot keeps its bits. -/
theorem exec_bsTob_next {s : State} {k : Slot} (hf : s.fault = none)
    (hroom : ceil8 (s.bits k).length ≤ s.bufCap) :
    ∃ t, exec (.bsTob k) s = .next t ∧ t.fault = none ∧ t.bsCap = s.bsCap ∧ t.buf = pack (s.bits k) ∧
      t.bits k = s.bits k ∧ t.out = s.out ++ [⟨.ok, value (s.bits k).length⟩] :=
  ⟨_, (exec_bsTob hf).trans (if_neg (not_lt.mpr hroom)), hf, rfl, rfl, by cases k <;> rfl, rfl⟩

/-- BS.FRB of the bytes of a stream: the slot holds the stream, and so does one that held it before (R55). -/
theorem exec_bsFrb_next {s : State} {b : Bits} (hf : s.fault = none) (hbuf : s.buf = pack b)
    (hcap : b.length ≤ s.bsCap) (hlen : b.length ≤ Config.lenCapMax) (j : Slot) :
    ∃ t, exec (.bsFrb j (BitVec.ofNat 32 b.length)) s = .next t ∧ t.fault = none ∧ t.bits j = b ∧
      (∀ k, s.bits k = b → t.bits k = b) ∧ t.out = s.out ++ [⟨.ok, value b.length⟩] := by
  have hv : (BitVec.ofNat 32 b.length).toNat = b.length :=
    Nat.mod_eq_of_lt (by rw [Config.lenCapMax] at hlen; omega)
  refine ⟨(s.loadSlot j b).respond .ok (value b.length), ?_, ?_, ?_, fun k hk => ?_, ?_⟩
  · rw [exec_bsFrb hf, hv, hbuf, if_neg (not_not.mpr (pack_length b)), if_neg (not_lt.mpr hcap), unpack_pack]
    rfl
  · simpa [State.loadSlot_eq] using hf
  · simp [State.loadSlot_eq]
  · simp [State.loadSlot_eq, hk]
  · simp [State.loadSlot_eq]

/-- Settles O33: packing loses nothing, and the slot that BS.TOB reads keeps its bits. -/
theorem serializationRoundTrip : Obligations.SerializationRoundTrip := by
  intro s k j hf hi hroom
  have hcap := hi.bits_length_le k
  obtain ⟨-, ⟨-, hmax⟩, -⟩ := hi.caps
  obtain ⟨t, htob, htf, htcap, hbuf, htk, htout⟩ := exec_bsTob_next hf hroom
  obtain ⟨u, hfrb, huf, huj, huk, huout⟩ :=
    exec_bsFrb_next htf hbuf (htcap ▸ hcap) (hcap.trans hmax) j
  have heq : exec (.bsEq k j) u = answered u 1#64 := exec_bsEq_of_eq huf ((huk k htk).trans huj.symm)
  refine ⟨_, ?_, (State.bits_respond u .ok 1#64 j).trans huj, ?_⟩
  · rw [execSeq_cons_of_next htob, execSeq_cons_of_next hfrb, execSeq_cons_of_next heq]
    rfl
  · simp [huout, htout]

end Sys2Proof.Machine

/-! ## The commands of the tree builder (42_tree_builder.md R122 to R131) -/

namespace Sys2Proof.Machine

section
variable {s : State} (hf : s.fault = none)
include hf

theorem exec_htIni : exec .htIni s = answered (initTree s) (value s.ft.length) := by
  rw [exec_of_legal (i := .htIni) hf nofun rfl]
  simp [pseudocode, State.respond, num]

theorem exec_htMrg_of_not_building (hb : s.tst ≠ .building) :
    exec .htMrg s = faulted s .illegalCommand none := by
  rw [exec_of_legal (i := .htMrg) hf nofun rfl, pseudocode, Bool.eq_false_iff.mpr (mt isBuilding_iff.mp hb)]
  rfl

theorem exec_htMrg_of_done {t : State} {v : Word} (hb : s.tst = .building) (hd : mergeStep s = .done t v) :
    exec .htMrg s = answered t v := by
  rw [exec_of_legal (i := .htMrg) hf nofun rfl, pseudocode, isBuilding_iff.mpr hb, require_true, hd]
  rfl

theorem exec_htBld_of_done {t : State} (hd : buildTree s = .done t ()) :
    exec .htBld s = answered t (value t.nd.length) := by
  rw [exec_of_legal (i := .htBld) hf nofun rfl, pseudocode, hd]
  rfl

theorem exec_cbDrv_of_ok {cb : List Bits} (hv : s.tst = .valid) (hcb : codesOf s = .ok cb) :
    exec .cbDrv s = answered (s.setCodebook cb) (value s.ft.length) := by
  rw [exec_of_legal (i := .cbDrv) hf nofun rfl, pseudocode, hasTree_iff.mpr hv, require_true, deriveCodebook,
    hcb]
  rfl

end

/-- Settles O34, with the queue in entry order. -/
theorem initTreeEffect : Obligations.InitTreeEffect :=
  ⟨rfl, fun s hf => ⟨firstQueue s.ft, .refl _, exec_htIni hf⟩⟩

/-! ### The reads of a node (R128 to R131) -/

section
variable {s : State} {idx : Word32} {x : Node} {f : Node → Option Word}

theorem finish_readNode_of_some {v : Word} (hx : s.nd[idx.toNat]? = some x) (hv : f x = some v) :
    (readNode idx f s).finish = answered s v := by
  simp [readNode, hx, hv, State.respond]

theorem finish_readNode_of_none (hx : s.nd[idx.toNat]? = some x) (hv : f x = none) :
    (readNode idx f s).finish = faulted s .illegalCommand none := by
  rw [← Run.finish_raised_eq_faulted]
  simp [readNode, hx, hv]

theorem finish_readNode_of_le (h : s.nd.length ≤ idx.toNat) :
    (readNode idx f s).finish = faulted s .illegalCommand none := by
  rw [readNode, List.getElem?_eq_none h]
  rfl

end

/-- Settles O38, from the three cases of a read: a leaf, an internal node, and no node. -/
theorem discardAndReadNodes : Obligations.DiscardAndReadNodes := by
  refine ⟨fun _ => ⟨rfl, rfl, rfl, rfl, rfl⟩, fun s idx hf => ?_⟩
  have hndk : exec (.htNdk idx) s = (readNode idx Node.kindSym s).finish :=
    exec_of_legal (i := .htNdk idx) hf nofun rfl
  have hndf : exec (.htNdf idx) s = (readNode idx (fun x => some (num x.freq)) s).finish :=
    exec_of_legal (i := .htNdf idx) hf nofun rfl
  have hndl : exec (.htNdl idx) s = (readNode idx Node.leftChild s).finish :=
    exec_of_legal (i := .htNdl idx) hf nofun rfl
  have hndr : exec (.htNdr idx) s = (readNode idx Node.rightChild s).finish :=
    exec_of_legal (i := .htNdr idx) hf nofun rfl
  rw [hndk, hndf, hndl, hndr]
  refine ⟨exec_of_legal (i := .htDis) hf nofun rfl, fun sym f hx => ?_, fun f l r hx => ?_, fun hle => ?_⟩
  · have hsym : Node.kindSym (.leaf sym f) = some (value sym.toNat) :=
      congrArg some (BitVec.ofNat_toNat ..).symm
    exact ⟨finish_readNode_of_some hx hsym, finish_readNode_of_some hx rfl, finish_readNode_of_none hx rfl,
      finish_readNode_of_none hx rfl⟩
  · exact ⟨finish_readNode_of_some hx rfl, finish_readNode_of_some hx rfl, finish_readNode_of_some hx rfl,
      finish_readNode_of_some hx rfl⟩
  · exact ⟨finish_readNode_of_le hle, finish_readNode_of_le hle, finish_readNode_of_le hle,
      finish_readNode_of_le hle⟩

/-! ### The least two elements of the queue (R121, R123) -/

theorem QElem.before_iff {x y : QElem} :
    x.before y = true ↔ x.freq < y.freq ∨ (x.freq = y.freq ∧ x.seq < y.seq) := by simp [QElem.before]

theorem QElem.before_asymm {x y : QElem} (h : x.before y = true) : y.before x = false := by
  rw [Bool.eq_false_iff, Ne, QElem.before_iff]
  rw [QElem.before_iff] at h
  omega

/-- The element before all others is the one extracted, wherever it stands in the queue (R121). -/
theorem extractMin_of_least {q : List QElem} {a : QElem} (ha : a ∈ q)
    (hleast : ∀ x ∈ q, x ≠ a → a.before x = true) : ∃ rest, extractMin q = some (a, rest) := by
  induction q with
  | nil => cases ha
  | cons x xs ih =>
    cases hx : extractMin xs with
    | none =>
      rw [extractMin_eq_none] at hx
      subst hx
      exact ⟨[], by rw [List.mem_singleton.mp ha]; rfl⟩
    | some p =>
      obtain ⟨m, rest⟩ := p
      by_cases hxa : x = a
      · subst hxa
        have hm : m ∈ xs := (extractMin_perm hx).1.mem_iff.mpr List.mem_cons_self
        by_cases hmx : m = x
        · exact ⟨x :: rest, by simp [extractMin, hx, hmx, QElem.before_irrefl]⟩
        · exact ⟨xs, by simp [extractMin, hx, hleast m (List.mem_cons_of_mem x hm) hmx]⟩
      · have hmem : a ∈ xs := (List.mem_cons.mp ha).resolve_left (Ne.symm hxa)
        obtain ⟨r, hr⟩ := ih hmem fun y hy => hleast y (List.mem_cons_of_mem x hy)
        have hbefore : x.before a = false := QElem.before_asymm (hleast x List.mem_cons_self hxa)
        rw [hx] at hr
        cases hr
        exact ⟨x :: rest, by simp [extractMin, hx, hbefore]⟩

/-- The least element and the least of the others are the two extracted, and all others are left: in a queue that
holds nothing twice, what is left is neither of the two (R121, R123). -/
theorem extractMin_two_of_least {q : List QElem} {a b : QElem} (hq : q.Nodup) (ha : a ∈ q) (hb : b ∈ q)
    (hne : a ≠ b) (hleast : ∀ x ∈ q, x ≠ a → a.before x = true)
    (hnext : ∀ x ∈ q, x ≠ a → x ≠ b → b.before x = true) :
    ∃ q1 q2, extractMin q = some (a, q1) ∧ extractMin q1 = some (b, q2) ∧
      q2.Perm (q.filter fun x => x ≠ a && x ≠ b) := by
  obtain ⟨q1, h1⟩ := extractMin_of_least ha hleast
  have hp1 := (extractMin_perm h1).1
  have hnot : a ∉ q1 := (List.nodup_cons.mp (hp1.nodup_iff.mp hq)).1
  have hb1 : b ∈ q1 := (List.mem_cons.mp (hp1.mem_iff.mp hb)).resolve_left hne.symm
  obtain ⟨q2, h2⟩ := extractMin_of_least hb1 fun x hx =>
    hnext x (hp1.mem_iff.mpr (List.mem_cons_of_mem a hx)) (ne_of_mem_of_not_mem hx hnot)
  refine ⟨q1, q2, h1, h2, ?_⟩
  have hp2 := (extractMin_two_perm h1 h2).1
  have hnd := hp2.nodup_iff.mp hq
  have hkeep : ∀ x ∈ q2, (decide (x ≠ a) && decide (x ≠ b)) = true := by
    intro x hx
    have hxa : x ≠ a := by rintro rfl; simp [hx] at hnd
    have hxb : x ≠ b := by rintro rfl; simp [hx] at hnd
    simp [hxa, hxb]
  have hfilter : (a :: b :: q2).filter (fun x => x ≠ a && x ≠ b) = q2 := by
    simpa using hkeep
  exact hfilter ▸ (hp2.filter _).symm

/-- A merge of the two elements extracted, field by field (R123). -/
theorem merged_eq {s : State} {a b : QElem} {rest : List QElem} (hb : s.tst = .building)
    (hlen : s.pq.length = rest.length + 2) :
    merged a b rest s = { s with
      nd := s.nd ++ [.internal (a.freq + b.freq) a.node b.node]
      pq := rest ++ [⟨a.freq + b.freq, s.nextSeq, s.nd.length⟩]
      nextSeq := s.nextSeq + 1
      tst := if s.pq.length = 2 then .valid else .building
      root := if s.pq.length = 2 then s.nd.length else s.root
      walk := if s.pq.length = 2 then s.nd.length else s.walk
      dpos := if s.pq.length = 2 then 0#32 else s.dpos } := by
  by_cases hr : rest = []
  · simp [merged, hr, hlen, combine, State.treeValid]
  · simp [merged, hr, hlen, combine, hb]

/-- Settles O35: the two elements that come before all others are the two that are extracted. -/
theorem mergeStepEffect : Obligations.MergeStepEffect := by
  refine ⟨rfl, fun s hf => ⟨exec_htMrg_of_not_building hf, ?_⟩⟩
  intro a b hb hseq ha hbq hne hleast hnext
  obtain ⟨q1, q2, h1, h2, hrest⟩ := extractMin_two_of_least (.of_map _ hseq) ha hbq hne
    (fun x hx hxa => QElem.before_iff.mpr (hleast x hx hxa))
    (fun x hx hxa hxb => QElem.before_iff.mpr (hnext x hx hxa hxb))
  have hlen : s.pq.length = q2.length + 2 := (extractMin_two_perm h1 h2).1.length_eq
  refine ⟨_, (List.perm_append_singleton _ _).trans (hrest.cons _), ?_⟩
  rw [exec_htMrg_of_done hf hb (mergeStep_of_extract h1 h2), merged_eq hb hlen, hlen]
  rfl

/-! ### The states of the tree builder (R124)

From HT.INI to the last merge the state is `TreeFrom` the one before HT.INI. Where the tree is complete it is
`BuiltFrom` that state, and there is only one such state, but for the responses. -/

/-- `t` holds trees of the table of `s`, and all else of `s` but the responses; no walk has begun. -/
structure TreeFrom (s t : State) : Prop where
  /-- R124: nothing but the tree registers and the responses is written -/
  frame : t.dropTree = { s.dropTree with out := t.out }
  /-- R122 -/
  started : t.tst ≠ .none
  /-- R40, R41, R125 -/
  inv : t.TreeInv
  /-- R122, R123 -/
  atRoot : t.tst = .valid → t.walk = t.root ∧ t.dpos = 0#32

/-- The trees of `TreeFrom` have become one (R124). -/
structure BuiltFrom (s t : State) : Prop extends TreeFrom s t where
  /-- R33 -/
  valid : t.tst = .valid

theorem initTree_treeFrom (s : State) : TreeFrom s (initTree s) where
  frame := rfl
  started := by rw [initTree_tst]; split <;> simp
  inv := initTree_treeInv s
  atRoot := fun _ => ⟨rfl, rfl⟩

section
variable {s t u : State} {v : Word}

theorem TreeFrom.respond (h : TreeFrom s t) (st : Status) (v : Word) : TreeFrom s (t.respond st v) where
  frame := congrArg (State.respond · st v) h.frame
  started := h.started
  inv := ⟨h.inv.tree, h.inv.ofTable⟩
  atRoot := h.atRoot

theorem TreeFrom.fault_eq (h : TreeFrom s t) : t.fault = s.fault := by
  simpa using congrArg State.fault h.frame

/-- There is a merge to do as long as there are two trees (R123, R124). -/
theorem TreeFrom.building_iff (h : TreeFrom s t) : t.tst = .building ↔ 2 ≤ t.pq.length := by
  refine ⟨fun hb => (h.inv.underWay hb).1, fun hlen => ?_⟩
  cases ht : t.tst with
  | none => exact absurd ht h.started
  | building => rfl
  | valid =>
    have := (h.inv.complete ht).1
    omega

theorem TreeFrom.builtFrom (h : TreeFrom s t) (hb : t.tst ≠ .building) : BuiltFrom s t where
  toTreeFrom := h
  valid := by
    cases ht : t.tst with
    | none => exact absurd ht h.started
    | building => exact absurd ht hb
    | valid => rfl

theorem mergeStep_treeFrom (h : TreeFrom s t) (hb : t.tst = .building) (hd : mergeStep t = .done u v) :
    TreeFrom s u where
  frame := by
    have hdrop := mergeStep_dropTree hd
    have hout : u.out = t.out := by simpa using congrArg State.out hdrop
    rw [hdrop, hout, h.frame]
  started := mergeStep_tst_ne_none hb hd
  inv := mergeStep_treeInv h.inv hb hd
  atRoot := by
    obtain ⟨a, b, q1, q2, -, -, rfl⟩ := mergeStep_eq_done hd
    by_cases hq : q2 = []
    · simp [merged, hq]
    · simp [merged, hq, hb]

theorem mergeLoop_treeFrom {n : Nat} (h : TreeFrom s t) (hd : mergeLoop n t = .done u ()) : TreeFrom s u := by
  induction n generalizing t with
  | zero =>
    rw [mergeLoop] at hd
    split at hd
    next => cases hd
    next => cases hd; exact h
  | succ n ih =>
    rw [mergeLoop] at hd
    split at hd
    next hb =>
      obtain ⟨r, v, hr, hrest⟩ := Run.bind_eq_done.mp hd
      exact ih (mergeStep_treeFrom h (isBuilding_iff.mp hb) hr) hrest
    next => cases hd; exact h

end

namespace BuiltFrom
variable {s t u : State}

theorem ft_eq (h : BuiltFrom s t) : t.ft = s.ft := by simpa using congrArg State.ft h.frame

theorem complete (h : BuiltFrom s t) : t.TreeComplete := h.inv.complete h.valid

theorem pq_length (h : BuiltFrom s t) : t.pq.length = min 1 s.ft.length := by
  obtain ⟨hpq, -⟩ := h.complete
  rw [hpq, h.ft_eq]

theorem nd_length (h : BuiltFrom s t) : t.nd.length = 2 * s.ft.length - 1 := by
  obtain ⟨-, -, -, -, hforest⟩ := h.complete
  have hlen := hforest.length_add
  rw [h.pq_length, h.ft_eq] at hlen
  omega

theorem eq_setTree (h : BuiltFrom s t) :
    t = { s with nd := t.nd, root := t.root, pq := t.pq, nextSeq := t.nextSeq, tst := .valid,
                 walk := t.root, dpos := 0#32, out := t.out } := by
  obtain ⟨hwalk, hdpos⟩ := h.atRoot h.valid
  calc t = { t.dropTree with nd := t.nd, root := t.root, pq := t.pq, nextSeq := t.nextSeq, tst := t.tst,
                             walk := t.walk, dpos := t.dpos } := rfl
    _ = _ := by rw [h.frame, h.valid, hwalk, hdpos]; rfl

/-- The tree registers of two states built from one table are the same (R125). -/
theorem tree_eq {s' : State} (ht : BuiltFrom s t) (hu : BuiltFrom s' u) (hft : s.ft = s'.ft) :
    t.nd = u.nd ∧ t.pq = u.pq ∧ t.nextSeq = u.nextSeq ∧ t.root = u.root ∧ t.tst = u.tst := by
  have hdata := treeData_eq_of_valid ht.inv hu.inv ht.valid hu.valid (by rw [ht.ft_eq, hu.ft_eq, hft])
  simpa [State.treeData] using hdata

/-- Two states built from one state differ in the responses alone (R124). -/
theorem eq_setOut (ht : BuiltFrom s t) (hu : BuiltFrom s u) : u = { t with out := u.out } := by
  obtain ⟨hnd, hpq, hns, hroot, -⟩ := ht.tree_eq hu rfl
  rw [ht.eq_setTree, hnd, hpq, hns, hroot]
  exact hu.eq_setTree

end BuiltFrom

/-! ### HT.BLD (R124) -/

/-- HT.BLD completes on every table (R124). -/
theorem exec_htBld_next {s : State} (hf : s.fault = none) :
    ∃ t, exec .htBld s = .next t ∧ BuiltFrom s t ∧ t.out = s.out ++ [⟨.ok, value t.nd.length⟩] := by
  obtain ⟨t, hd, hv, -, hdrop⟩ := buildTree_done s
  have ht := (mergeLoop_treeFrom (initTree_treeFrom s) hd).respond .ok (value t.nd.length)
  have hout : t.out = s.out := by simpa using congrArg State.out hdrop
  exact ⟨_, exec_htBld_of_done hf hd, { ht with valid := hv }, by simp [hout]⟩

/-! ### HT.INI and its HT.MRG commands (R124) -/

/-- A merge answers the number of trees it leaves (R123). -/
theorem mergeStep_value {s t : State} {v : Word} (hd : mergeStep s = .done t v) : v = value t.pq.length := by
  have hlen := mergeStep_pq_length hd
  obtain ⟨a, b, q1, q2, h1, h2, rfl⟩ := mergeStep_eq_done hd
  have hplen : s.pq.length = q2.length + 2 := (extractMin_two_perm h1 h2).1.length_eq
  rw [mergeStep_of_extract h1 h2] at hd
  cases hd
  rw [num, value, show (merged a b q2 s).pq.length = q2.length + 1 by omega]

/-- Merges until one tree is left; the last command has answered the number of trees. -/
theorem execSeq_htMrg {s t : State} (hf : s.fault = none) (h : TreeFrom s t)
    (hout : t.out.getLast? = some ⟨.ok, value t.pq.length⟩) :
    ∃ u, execSeq (List.replicate (t.pq.length - 1) .htMrg) t = .next u ∧ BuiltFrom s u ∧
      u.out.getLast? = some ⟨.ok, value u.pq.length⟩ := by
  induction hn : t.pq.length - 1 generalizing t with
  | zero => exact ⟨t, rfl, h.builtFrom fun hb => by have := h.building_iff.mp hb; omega, hout⟩
  | succ n ih =>
    have hlen : 2 ≤ t.pq.length := by omega
    have hb := h.building_iff.mpr hlen
    obtain ⟨u, v, hd⟩ := exists_mergeStep_done hlen
    have hleft : u.pq.length - 1 = n := by have := mergeStep_pq_length hd; omega
    rw [List.replicate_succ, execSeq_cons_of_next (exec_htMrg_of_done (h.fault_eq.trans hf) hb hd)]
    exact ih ((mergeStep_treeFrom h hb hd).respond .ok v) (by simp [mergeStep_value hd]) hleft

/-- Settles O36: both ways end in a state built from the one they start in, and there is only one. -/
theorem buildTreeEffect : Obligations.BuildTreeEffect := by
  refine ⟨rfl, fun s hf => ?_⟩
  obtain ⟨t, hbld, ht, hout⟩ := exec_htBld_next hf
  obtain ⟨u, hseq, hu, hlast⟩ :=
    execSeq_htMrg hf ((initTree_treeFrom s).respond .ok (value s.ft.length)) (by simp)
  refine ⟨t, u, hbld, hout ▸ ht.eq_setTree, ht.nd_length, ?_, ht.eq_setOut hu, hu.pq_length ▸ hlast⟩
  rw [execSeq_cons_of_next (exec_htIni hf)]
  rwa [State.respond_pq, initTree_pq, firstQueue_length] at hseq

/-! ### The codebook of a complete tree (R125, R140) -/

/-- The traversal of a forest ends: children lie below their parent, and every leaf is an entry (R140). -/
theorem exists_visit_ok {s : State} (h : s.ForestOk) {bound k : Nat} (hk : k < s.nd.length) (hb : k < bound)
    (path : Bits) {cb : List Bits} (hcb : cb.length = s.ft.length) :
    ∃ cb', visit s.nd bound k path cb = .ok cb' ∧ cb'.length = s.ft.length := by
  induction bound generalizing k path cb with
  | zero => exact absurd hb (Nat.not_lt_zero k)
  | succ m ih =>
    by_cases hn : k < s.ft.length
    · exact ⟨cb.set k path, by simp [visit, h.leaf hn, hcb, hn], by simpa using hcb⟩
    · obtain ⟨f, l, r, hi, hl, hr, -⟩ := internalOk_iff.mp (h.internal hk (not_lt.mp hn))
      obtain ⟨cb1, hleft, hlen⟩ := ih (hl.trans hk) (by omega) (path ++ [false]) hcb
      obtain ⟨cb2, hright, hlen'⟩ := ih (hr.trans hk) (by omega) (path ++ [true]) hlen
      exact ⟨cb2, by simp [visit, hi, hleft, hright], hlen'⟩

/-- A complete tree has a codebook (R140). -/
theorem State.TreeComplete.exists_codesOf_ok {s : State} (h : s.TreeComplete) :
    ∃ cb, codesOf s = .ok cb := by
  obtain ⟨-, hroot, -, -, hforest⟩ := h
  unfold codesOf
  split
  · exact ⟨_, rfl⟩
  · split
    · exact ⟨_, rfl⟩
    · have hlt : s.root < s.nd.length := by omega
      obtain ⟨cb, hcb, -⟩ := exists_visit_ok hforest hlt hlt [] (List.length_replicate ..)
      exact ⟨cb, hcb⟩

/-- HT.BLD and CB.DRV complete on every table (R124, R140). -/
theorem execSeq_htBld_cbDrv {s : State} (hf : s.fault = none) :
    ∃ t cb v, BuiltFrom s t ∧ codesOf t = .ok cb ∧
      execSeq [.htBld, .cbDrv] s = .next ((t.setCodebook cb).respond .ok v) := by
  obtain ⟨t, hbld, ht, -⟩ := exec_htBld_next hf
  obtain ⟨cb, hcb⟩ := ht.complete.exists_codesOf_ok
  refine ⟨t, cb, value t.ft.length, ht, hcb, ?_⟩
  rw [execSeq_cons_of_next hbld, execSeq_cons_of_next (exec_cbDrv_of_ok (ht.fault_eq.trans hf) ht.valid hcb)]
  rfl

/-- Settles O37: the tree registers follow from the table, and the codebook from them. -/
theorem buildDependsOnTableOnly : Obligations.BuildDependsOnTableOnly := by
  intro s v hs hv hft
  obtain ⟨t, cbt, wt, ht, hcbt, hexect⟩ := execSeq_htBld_cbDrv hs
  obtain ⟨u, cbu, wu, hu, hcbu, hexecu⟩ := execSeq_htBld_cbDrv hv
  obtain ⟨hnd, hpq, hns, hroot, htst⟩ := ht.tree_eq hu hft
  have hcb : cbt = cbu := by
    have hcodes := codesOf_congr hnd hroot (by rw [ht.ft_eq, hu.ft_eq, hft])
    rw [hcbt, hcbu] at hcodes
    exact Except.ok.inj hcodes
  exact ⟨_, _, hexect, hexecu, hnd, hroot, hpq, hns, htst, hcb, rfl, rfl⟩

/-! ### The one tree of a table (R40, R41) -/

/-- A child lies below its parent (R40). -/
theorem State.ForestOk.exists_parent {s : State} (h : s.ForestOk) {c : Nat}
    (hc : c ∈ s.nd.flatMap Node.children) : ∃ k < s.nd.length, c < k := by
  obtain ⟨x, hx, hcx⟩ := List.mem_flatMap.mp hc
  obtain ⟨k, hk⟩ := List.mem_iff_getElem?.mp hx
  have hlt := (List.getElem?_eq_some_iff.mp hk).1
  have hn : s.ft.length ≤ k := by
    by_contra hn
    rw [h.leaf (not_le.mp hn)] at hk
    cases hk
    cases hcx
  obtain ⟨f, l, r, hi, hl, hr, -⟩ := internalOk_iff.mp (h.internal hlt hn)
  rw [hk] at hi
  cases hi
  have hcase : c = l ∨ c = r := by simpa [Node.children] using hcx
  exact ⟨k, hlt, hcase.elim (fun hcl => hcl ▸ hl) fun hcr => hcr ▸ hr⟩

/-- The last node is no child, so it is the root of a tree in the queue (R28, R40). -/
theorem State.ForestOk.last_mem_queue {s : State} (h : s.ForestOk) (hne : s.nd.length ≠ 0) :
    s.nd.length - 1 ∈ s.pq.map QElem.node := by
  have hchild : s.nd.length - 1 ∉ s.nd.flatMap Node.children := fun hm => by
    obtain ⟨k, hk, hlt⟩ := h.exists_parent hm
    omega
  have hcount := h.count (Nat.sub_one_lt hne)
  rw [List.count_eq_zero.mpr hchild, Nat.add_zero] at hcount
  exact List.count_pos_iff.mp (by omega)

theorem State.ForestOk.freq_sum {s : State} (h : s.ForestOk) :
    (s.pq.map QElem.freq).sum = totalCount s.ft := by
  obtain ⟨-, -, -, -, -, -, -, hsum, -⟩ := h
  exact hsum

/-- The queue of a complete tree is its root, which has the table's total (R40). -/
theorem State.TreeComplete.queue_eq {s : State} (h : s.TreeComplete) (hne : s.ft ≠ []) :
    ∃ q, s.pq = [q] ∧ q.node = s.root ∧ q.freq = totalCount s.ft := by
  obtain ⟨hpq, hroot, -, -, hforest⟩ := h
  have hpos : 0 < s.ft.length := List.length_pos_iff.mpr hne
  obtain ⟨q, hq⟩ := List.length_eq_one_iff.mp (hpq.trans (Nat.min_eq_left hpos))
  have hlast := hforest.last_mem_queue (by have := hforest.length_le; omega)
  have hsum := hforest.freq_sum
  rw [hq] at hlast hsum
  exact ⟨q, hq, hroot ▸ (List.mem_singleton.mp hlast).symm, by simpa using hsum⟩

/-- Settles O39, from the invariant of the complete tree that HT.BLD leaves. -/
theorem buildGivesHuffmanTree : Obligations.BuildGivesHuffmanTree := by
  intro s hf
  obtain ⟨t, hbld, ht, -⟩ := exec_htBld_next hf
  refine ⟨t, hbld, ht.ft_eq, ht.complete, fun hne => ?_⟩
  obtain ⟨q, hq, hnode, hfreq⟩ := ht.complete.queue_eq (ht.ft_eq ▸ hne)
  obtain ⟨-, hroot, -, -, hforest⟩ := ht.complete
  obtain ⟨-, -, hqf⟩ := hforest.mem_queue (q := q) (by simp [hq])
  refine ⟨?_, by simp [hq, hnode], hroot⟩
  rw [← hnode, ← hqf, hfreq, ht.ft_eq]

end Sys2Proof.Machine

/-! ## Paths and codes (43_encoder.md R140, R144)

A code is a path of the tree. Whatever CB.DRV writes at a place of the codebook is a path to the leaf of that
place, and every leaf is reached from the root; so the proofs need not know that there is only one path to a
leaf. -/

namespace Sys2Proof.Machine

/-! ### Following a path -/

theorem follow_cons_eq_some {nd : List Node} {k i : Nat} {b : Bool} {path : Bits} :
    follow nd k (b :: path) = some i ↔
      ∃ f l r, nd[k]? = some (.internal f l r) ∧ follow nd (if b then r else l) path = some i := by
  rw [follow]
  split
  next f l r h => simp [h]
  next h =>
    refine iff_of_false (by simp) ?_
    rintro ⟨f, l, r, hk, -⟩
    exact h f l r hk

theorem follow_append (nd : List Node) (k : Nat) (p q : Bits) :
    follow nd k (p ++ q) = (follow nd k p).bind fun j => follow nd j q := by
  induction p generalizing k with
  | nil => rfl
  | cons b p ih =>
    rw [List.cons_append, follow, follow]
    split
    · exact ih _
    · rfl

section
variable {s : State}

/-- An internal node stands above the entries and above its children (R40). -/
theorem State.ForestOk.of_internal (h : s.ForestOk) {k f l r : Nat}
    (hk : s.nd[k]? = some (.internal f l r)) : s.ft.length ≤ k ∧ l < k ∧ r < k := by
  have hn : s.ft.length ≤ k := by
    by_contra hn
    rw [h.leaf (not_le.mp hn)] at hk
    cases hk
  obtain ⟨f', l', r', hi, hl, hr, -⟩ :=
    internalOk_iff.mp (h.internal (List.getElem?_eq_some_iff.mp hk).1 hn)
  rw [hk] at hi
  cases hi
  exact ⟨hn, hl, hr⟩

/-- A path descends, so it is no longer than the internal nodes from its start downwards are many. -/
theorem State.ForestOk.follow_length_le (h : s.ForestOk) {k i : Nat} {c : Bits}
    (hc : follow s.nd k c = some i) : c.length ≤ k + 1 - s.ft.length := by
  induction c generalizing k with
  | nil => exact Nat.zero_le _
  | cons b c ih =>
    obtain ⟨f, l, r, hk, hchild⟩ := follow_cons_eq_some.mp hc
    obtain ⟨hn, hl, hr⟩ := h.of_internal hk
    have hlt : (if b then r else l) < k := by cases b <;> assumption
    have := ih hchild
    rw [List.length_cons]
    omega

/-- No path goes on from a leaf. -/
theorem State.ForestOk.follow_leaf (h : s.ForestOk) {i j : Nat} {c : Bits} (hi : i < s.ft.length)
    (hc : follow s.nd i c = some j) : i = j := by
  cases c with
  | nil => exact Option.some.inj hc
  | cons b c =>
    obtain ⟨f, l, r, hk, -⟩ := follow_cons_eq_some.mp hc
    exact absurd hi (not_lt.mpr (h.of_internal hk).1)

theorem State.TreeComplete.forestOk (h : s.TreeComplete) : s.ForestOk := by
  obtain ⟨-, -, -, -, hforest⟩ := h
  exact hforest

theorem State.TreeComplete.root_eq (h : s.TreeComplete) : s.root = s.nd.length - 1 := by
  obtain ⟨-, hroot, -⟩ := h
  exact hroot

theorem State.TreeComplete.nd_length (h : s.TreeComplete) : s.nd.length = 2 * s.ft.length - 1 := by
  obtain ⟨hpq, -, -, -, hforest⟩ := h
  have := hforest.length_add
  omega

/-- A node but the root is a child (R40). -/
theorem State.TreeComplete.exists_parent (h : s.TreeComplete) {k : Nat} (hk : k < s.nd.length)
    (hne : k ≠ s.root) :
    ∃ j f l r : Nat, s.nd[j]? = some (.internal f l r) ∧ ∃ b : Bool, k = if b then r else l := by
  obtain ⟨q, hq, hnode, -⟩ := h.queue_eq (by rintro hnil; simp [h.nd_length, hnil] at hk)
  have hcount := h.forestOk.count hk
  rw [hq, List.map_singleton, hnode, List.count_singleton, beq_false_of_ne hne.symm] at hcount
  have hchild : k ∈ s.nd.flatMap Node.children := List.count_pos_iff.mp (by simp at hcount; omega)
  obtain ⟨x, hx, hkx⟩ := List.mem_flatMap.mp hchild
  obtain ⟨j, hj⟩ := List.mem_iff_getElem?.mp hx
  cases x with
  | leaf sym f => cases hkx
  | internal f l r =>
    have hcase : k = l ∨ k = r := by simpa [Node.children] using hkx
    exact ⟨j, f, l, r, hj, hcase.elim (fun hl => ⟨false, hl⟩) fun hr => ⟨true, hr⟩⟩

/-- Every node of a complete tree is reached from its root, by the path to its parent and one edge more. -/
theorem State.TreeComplete.exists_path (h : s.TreeComplete) {k : Nat} (hk : k < s.nd.length) :
    ∃ c, follow s.nd s.root c = some k := by
  induction hd : s.nd.length - k using Nat.strong_induction_on generalizing k with
  | _ d ih =>
    by_cases hroot : k = s.root
    · exact ⟨[], hroot ▸ rfl⟩
    · obtain ⟨j, f, l, r, hj, b, hb⟩ := h.exists_parent hk hroot
      have hjlt : j < s.nd.length := (List.getElem?_eq_some_iff.mp hj).1
      obtain ⟨-, hl, hr⟩ := h.forestOk.of_internal hj
      have hlt : k < j := by subst hb; cases b <;> assumption
      obtain ⟨p, hp⟩ := ih (s.nd.length - j) (by omega) hjlt rfl
      refine ⟨p ++ [b], ?_⟩
      rw [follow_append, hp, Option.bind_some, follow_cons_eq_some]
      exact ⟨f, l, r, hj, hb ▸ rfl⟩

end

/-! ### The traversal (R140) -/

section
variable {nd : List Node} {bound k : Nat} {path : Bits} {cb cb' : List Bits}

/-- Everything a completed visit can have done: the path written at a leaf, or both children visited. -/
theorem visit_eq_ok (h : visit nd bound k path cb = .ok cb') :
    (k < cb.length ∧ cb' = cb.set k path ∧ ∃ sym f, nd[k]? = some (.leaf sym f)) ∨
    ∃ m f l r cb1, bound = m + 1 ∧ nd[k]? = some (.internal f l r) ∧
      visit nd m l (path ++ [false]) cb = .ok cb1 ∧ visit nd m r (path ++ [true]) cb1 = .ok cb' := by
  cases bound with
  | zero => cases h
  | succ m =>
    rw [visit] at h
    split at h
    next => cases h
    next sym f hk =>
      split at h
      next hlt => cases h; exact .inl ⟨hlt, rfl, sym, f, hk⟩
      next => cases h
    next f l r hk =>
      split at h
      next => cases h
      next cb1 hl => exact .inr ⟨m, f, l, r, cb1, rfl, hk, hl, h⟩

/-- A place of the codebook keeps its code, or has the path to the node of that place (R140). -/
theorem visit_getElem? (h : visit nd bound k path cb = .ok cb') (i : Nat) :
    cb'[i]? = cb[i]? ∨ ∃ c, cb'[i]? = some (path ++ c) ∧ follow nd k c = some i := by
  induction bound generalizing k path cb cb' with
  | zero => cases h
  | succ m ih =>
    rcases visit_eq_ok h with ⟨hlt, rfl, -⟩ | ⟨m', f, l, r, cb1, hm, hk, hl, hr⟩
    · by_cases hi : k = i
      · subst hi
        exact .inr ⟨[], by simp [hlt], rfl⟩
      · exact .inl (List.getElem?_set_ne hi)
    · cases hm
      rcases ih hr with hr | ⟨c, hc, hf⟩
      · rcases ih hl with hl | ⟨c, hc, hf⟩
        · exact .inl (hr.trans hl)
        · exact .inr ⟨false :: c, by simpa [hr] using hc, follow_cons_eq_some.mpr ⟨f, l, r, hk, hf⟩⟩
      · exact .inr ⟨true :: c, by simpa using hc, follow_cons_eq_some.mpr ⟨f, l, r, hk, hf⟩⟩

/-- A leaf that is reached has the path to it as its code (R140). -/
theorem visit_of_follow {i : Nat} {p : Bits} (h : visit nd bound k path cb = .ok cb')
    (hp : follow nd k p = some i) (hi : ∃ sym f, nd[i]? = some (.leaf sym f)) :
    ∃ c, cb'[i]? = some (path ++ c) ∧ follow nd k c = some i := by
  induction bound generalizing k path cb cb' p with
  | zero => cases h
  | succ m ih =>
    rcases visit_eq_ok h with ⟨hlt, rfl, sym, g, hk⟩ | ⟨m', f, l, r, cb1, hm, hk, hl, hr⟩
    · cases p with
      | nil =>
        cases hp
        exact ⟨[], by simp [hlt], rfl⟩
      | cons b p =>
        obtain ⟨f, l, r, hk', -⟩ := follow_cons_eq_some.mp hp
        rw [hk] at hk'
        cases hk'
    · cases hm
      cases p with
      | nil =>
        cases hp
        obtain ⟨sym, g, hi⟩ := hi
        rw [hk] at hi
        cases hi
      | cons b p =>
        obtain ⟨f', l', r', hk', hp⟩ := follow_cons_eq_some.mp hp
        rw [hk] at hk'
        cases hk'
        have hcons : ∀ {b : Bool} {c : Bits}, follow nd (if b then r else l) c = some i →
            follow nd k (b :: c) = some i := fun hf => follow_cons_eq_some.mpr ⟨f, l, r, hk, hf⟩
        cases b with
        | true =>
          obtain ⟨c, hc, hf⟩ := ih hr hp
          exact ⟨true :: c, by simpa using hc, hcons hf⟩
        | false =>
          obtain ⟨c, hc, hf⟩ := ih hl hp
          rcases visit_getElem? hr i with hsame | ⟨c', hc', hf'⟩
          · exact ⟨false :: c, by simpa [hsame] using hc, hcons hf⟩
          · exact ⟨true :: c', by simpa using hc', hcons hf'⟩

end

/-! ### The codebook of a tree -/

/-- What CB.DRV makes of a complete tree (R140). -/
structure TreeCodes (s : State) (cb : List Bits) : Prop where
  length : cb.length = s.ft.length
  lone : s.ft.length = 1 → cb = [[false]]
  path : 2 ≤ s.ft.length → ∀ i < s.ft.length, ∃ c, cb[i]? = some c ∧ follow s.nd s.root c = some i

theorem State.TreeComplete.treeCodes {s : State} {cb : List Bits} (h : s.TreeComplete)
    (hcb : codesOf s = .ok cb) : TreeCodes s cb := by
  have hlen := h.nd_length
  unfold codesOf at hcb
  split at hcb
  next h0 =>
    cases hcb
    have : s.ft.length = 0 := by omega
    exact ⟨this.symm, fun _ => by omega, fun _ => by omega⟩
  next h0 =>
    split at hcb
    next h1 =>
      cases hcb
      have : s.ft.length = 1 := by omega
      exact ⟨this.symm, fun _ => rfl, fun _ => by omega⟩
    next h1 =>
      have hlt : s.root < s.nd.length := by rw [h.root_eq]; omega
      obtain ⟨cb', hok, hcblen⟩ := exists_visit_ok h.forestOk hlt hlt [] (List.length_replicate ..)
      cases hcb.symm.trans hok
      refine ⟨hcblen, fun _ => by omega, fun _ i hi => ?_⟩
      obtain ⟨p, hp⟩ := h.exists_path (k := i) (by omega)
      exact visit_of_follow hcb hp ⟨_, _, h.forestOk.leaf hi⟩

/-- Settles O40: every leaf is reached from the root, and its place holds a path to it. -/
theorem deriveCodebookEffect : Obligations.DeriveCodebookEffect := by
  refine ⟨rfl, fun s hf hv => ?_, fun s hf hi hv => ?_⟩
  · rw [exec_of_legal (i := .cbDrv) hf nofun rfl, pseudocode, Bool.eq_false_iff.mpr (mt hasTree_iff.mp hv)]
    rfl
  · have hc := hi.treeInv.complete hv
    obtain ⟨cb, hcb⟩ := hc.exists_codesOf_ok
    have hcodes := hc.treeCodes hcb
    have hlen := hc.nd_length
    exact ⟨cb, exec_cbDrv_of_ok hf hv hcb, hcodes.length,
      fun h0 => List.length_eq_zero_iff.mp (by rw [hcodes.length]; omega), fun h1 => hcodes.lone (by omega),
      fun h2 => hcodes.path (by omega)⟩

theorem TreeCodes.follow_eq {s : State} {cb : List Bits} (hcodes : TreeCodes s cb) (hn : 2 ≤ s.ft.length)
    {i : Nat} {c : Bits} (hc : cb[i]? = some c) : i < s.ft.length ∧ follow s.nd s.root c = some i := by
  have hi : i < s.ft.length := hcodes.length ▸ (List.getElem?_eq_some_iff.mp hc).1
  obtain ⟨c', hc', hfollow⟩ := hcodes.path hn i hi
  exact ⟨hi, Option.some.inj (hc.symm.trans hc') ▸ hfollow⟩

/-- A code has a bit, as the root is no leaf, and at most one for each internal node (R132, R144). -/
theorem TreeCodes.length_bounds {s : State} {cb : List Bits} (h : s.TreeComplete) (hcodes : TreeCodes s cb)
    (hn : 2 ≤ s.ft.length) {i : Nat} {c : Bits} (hc : cb[i]? = some c) :
    1 ≤ c.length ∧ c.length ≤ s.ft.length - 1 := by
  have hroot := h.root_eq
  have hlen := h.nd_length
  obtain ⟨hi, hfollow⟩ := hcodes.follow_eq hn hc
  have hle := h.forestOk.follow_length_le hfollow
  refine ⟨List.length_pos_iff.mpr ?_, by omega⟩
  rintro rfl
  have hlone : s.root = i := Option.some.inj hfollow
  omega

/-- A code that continues another one would lead on from a leaf (R144). -/
theorem TreeCodes.eq_of_isPrefix {s : State} {cb : List Bits} (h : s.TreeComplete) (hcodes : TreeCodes s cb)
    (hn : 2 ≤ s.ft.length) {i j : Nat} {ci cj : Bits} (hci : cb[i]? = some ci) (hcj : cb[j]? = some cj)
    (hpre : ci <+: cj) : i = j := by
  obtain ⟨d, rfl⟩ := hpre
  obtain ⟨hi, hfi⟩ := hcodes.follow_eq hn hci
  obtain ⟨-, hfj⟩ := hcodes.follow_eq hn hcj
  rw [follow_append, hfi, Option.bind_some] at hfj
  exact h.forestOk.follow_leaf hi hfj

/-- The codebook of a table is that of the complete tree which HT.BLD makes of it (R124, R140). -/
theorem tableCodes_eq_some {ft : List Entry} {cb : List Bits} (h : tableCodes ft = some cb) :
    ∃ t : State, t.TreeComplete ∧ t.ft = ft ∧ TreeCodes t cb := by
  obtain ⟨t, ht, hv, hi, hdrop⟩ := buildTree_done { State.reset with ft := ft }
  have hc := hi.complete hv
  obtain ⟨cb', hcb⟩ := hc.exists_codesOf_ok
  have hcodes := hc.treeCodes hcb
  simp only [tableCodes, ht, hcb, Option.some.injEq] at h
  exact ⟨t, hc, congrArg State.ft hdrop, h ▸ hcodes⟩

/-- Settles O41: the codebook is that of a complete tree, and its codes are the paths to different leaves. -/
theorem codebookPrefixFree : Obligations.CodebookPrefixFree := by
  intro s hi hv
  have hcb : tableCodes s.ft = some s.cb := by simpa [State.CodebookOk, hv] using hi.codebook
  obtain ⟨t, hc, hft, hcodes⟩ := tableCodes_eq_some hcb
  rw [← hft]
  refine ⟨hcodes.length, hcodes.lone, fun hn => ⟨fun c hmem => ?_, fun i j ci cj hci hcj hne hpre => ?_⟩⟩
  · obtain ⟨i, hc'⟩ := List.mem_iff_getElem?.mp hmem
    exact hcodes.length_bounds hc hn hc'
  · exact hne (hcodes.eq_of_isPrefix hc hn hci hcj hpre)

end Sys2Proof.Machine

/-! ## ENC.SYM (43_encoder.md R141, R142) -/

namespace Sys2Proof.Machine

/-! ### A multi-bit append, as an answer -/

section
variable {s : State} {k : Slot} {bs : Bits}

theorem finish_thenLen_appendBits_of_le (h : (s.bits k).length + bs.length ≤ s.bsCap) :
    (thenLen k (appendBits k bs s)).finish =
      answered (s.setBits k (s.bits k ++ bs)) (value ((s.bits k).length + bs.length)) := by
  rw [appendBits_done k bs s h, finish_thenLen_done, State.bits_setBits, if_pos rfl, List.length_append]

theorem finish_thenLen_appendBits_of_lt (hcap : (s.bits k).length ≤ s.bsCap)
    (h : s.bsCap < (s.bits k).length + bs.length) :
    (thenLen k (appendBits k bs s)).finish =
      faulted (s.setBits k (s.bits k ++ bs.take (s.bsCap - (s.bits k).length))) .capacityExceeded none := by
  rw [appendBits_raised k bs s hcap h, List.take_append, List.take_of_length_le hcap]
  exact Run.finish_raised_eq_faulted ..

end

/-! ### The code of a symbol -/

section
variable {s : State} {k : Slot} {sym : Symbol} {pos : Option Nat}

theorem encodeSymbol_of_miss (h : ∀ e ∈ s.ft, e.sym ≠ sym) :
    encodeSymbol k sym pos s = .raised s .codebookMiss pos := by
  rw [encodeSymbol, findSym_eq_none.mpr h]

theorem encodeSymbol_of_code {i : Nat} {c : Bits} (hi : findSym s.ft sym = some i) (hc : s.cb[i]? = some c) :
    encodeSymbol k sym pos s = appendBits k c s := by
  rw [encodeSymbol, hi]
  dsimp only
  rw [hc]

theorem exec_encSym (hf : s.fault = none) (hsym : isScalar sym = true) (hv : s.cvalid = true) :
    exec (.encSym k sym) s = (thenLen k (encodeSymbol k sym none s)).finish := by
  rw [exec_of_legal (i := .encSym k sym) hf nofun hsym, pseudocode, hv, require_true]

theorem exec_encSym_of_not_valid (hf : s.fault = none) (hv : s.cvalid = false) :
    exec (.encSym k sym) s = faulted s .illegalCommand none := by
  rw [exec_of_ok (i := .encSym k sym) hf nofun, pseudocode, hv, require_false]
  cases (Instr.encSym k sym).wellFormed <;> rfl

end

/-- Settles O42, from the search for the first entry and the append of its code. -/
theorem encodeSymbolEffect : Obligations.EncodeSymbolEffect := by
  refine ⟨fun _ _ => rfl, fun s k sym hf => ⟨?_, fun hsym hv hmiss => ?_, ?_⟩⟩
  · rintro (hsym | hv)
    · exact exec_of_illegal hf hsym
    · exact exec_encSym_of_not_valid hf hv
  · rw [exec_encSym hf hsym hv, encodeSymbol_of_miss hmiss]
    rfl
  · rintro i e c hsym hv hi rfl hfirst hc
    rw [exec_encSym hf hsym hv, encodeSymbol_of_code (findSym_eq_of_first hi hfirst) hc]
    exact ⟨finish_thenLen_appendBits_of_le, finish_thenLen_appendBits_of_lt⟩

end Sys2Proof.Machine

/-! ## ENC.RUN (43_encoder.md R143, R144)

Once the text is counted, ENC.RUN is one append of the codes of the text to the empty slot. -/

namespace Sys2Proof.Machine

/-! ### Counting the text (R96) -/

theorem countText_append (a b : List Symbol) (s : State) :
    countText (a ++ b) s = (countText a s).bind fun t _ => countText b t := by
  induction a generalizing s with
  | nil => rfl
  | cons c a ih =>
    rw [List.cons_append, countText, countText]
    cases countSymbol c s with
    | done t v => exact ih t
    | raised t k p => rfl
    | stuck e => rfl

theorem countText_singleton (c : Symbol) (s : State) :
    countText [c] s = (countSymbol c s).bind fun t _ => .done t () := rfl

/-- A text whose symbols the table can hold is counted into its table (R96). -/
theorem countText_clearTable {s : State} {text : List Symbol} (hcap : (distinct text).length ≤ s.ftCap)
    (hlen : text.length ≤ Config.lenCapMax) :
    countText text (clearTable s) = .done (s.setTable (countedTable text)) () := by
  induction text using List.reverseRecOn with
  | nil => rfl
  | append_singleton text c ih =>
    have htext := ih ((distinct_length_le_concat text c).trans hcap) (by simp at hlen; omega)
    obtain ⟨v, hc⟩ := countSymbol_countedTable (s := s.setTable (countedTable text)) rfl hcap hlen
    rw [countText_append, htext, Run.bind_done, countText_singleton, hc]
    rfl

/-- Everything a completed count can have done (R91): one entry counts one more, or there is a new entry. -/
theorem countSymbol_eq_done {c : Symbol} {s t : State} {v : Word} (h : countSymbol c s = .done t v) :
    (∃ pre e post, s.ft = pre ++ e :: post ∧ e.sym = c ∧ e.cnt ≠ 0xFFFFFFFF#32 ∧
      t.ft = pre ++ ⟨c, e.cnt + 1#32⟩ :: post) ∨
    (c ∉ s.ft.map Entry.sym ∧ t.ft = s.ft ++ [⟨c, 1#32⟩]) := by
  rcases countSymbol_cases c s with ⟨i, e, hi, he, hmax, hd⟩ | ⟨hi, -, hd⟩ | hd <;> rw [hd] at h <;> cases h
  · obtain ⟨hlt, hsym, -⟩ := findSym_eq_some.mp hi
    obtain ⟨_, rfl⟩ := List.getElem?_eq_some_iff.mp he
    refine .inl ⟨s.ft.take i, s.ft[i], s.ft.drop (i + 1), ?_, hsym, hmax, ?_⟩
    · rw [List.getElem_cons_drop, List.take_append_drop]
    · rw [State.setTable_ft, List.set_eq_take_append_cons_drop, if_pos hlt]
  · refine .inr ⟨fun hm => ?_, rfl⟩
    obtain ⟨e, he, hsym⟩ := List.mem_map.mp hm
    exact findSym_eq_none.mp hi e he hsym

/-- What FT.CNT of every character of a text leaves in an empty table, whatever the capacity (R91, R96). -/
structure Tallied (text : List Symbol) (ft : List Entry) : Prop where
  nodup : (ft.map Entry.sym).Nodup
  mem : ∀ c ∈ text, c ∈ ft.map Entry.sym
  /-- a sum over the characters is the sum over the entries, each as often as it is counted -/
  sum : ∀ f : Symbol → Nat, (ft.map fun e => e.cnt.toNat * f e.sym).sum = (text.map f).sum

/-- One character more is counted, without wrapping (R91). -/
theorem Tallied.countSymbol {text : List Symbol} {c : Symbol} {s t : State} {v : Word}
    (h : Tallied text s.ft) (hc : countSymbol c s = .done t v) : Tallied (text ++ [c]) t.ft := by
  obtain ⟨hnodup, hmem, hsum⟩ := h
  rcases countSymbol_eq_done hc with ⟨pre, e, post, hs, rfl, hmax, ht⟩ | ⟨hnew, ht⟩ <;> rw [ht]
  · have hcnt : (e.cnt + 1#32).toNat = e.cnt.toNat + 1 := by bv_omega
    rw [hs] at hnodup hmem hsum
    refine ⟨by simpa using hnodup, fun c hc => ?_, fun f => ?_⟩
    · rcases List.mem_append.mp hc with hc | hc
      · simpa using hmem c hc
      · simp [List.mem_singleton.mp hc]
    · have := hsum f
      simp only [List.map_append, List.map_cons, List.sum_append, List.sum_cons] at this
      simp only [List.map_append, List.map_cons, List.sum_append, List.sum_cons, List.map_nil, List.sum_nil,
        hcnt, Nat.add_mul]
      omega
  · refine ⟨?_, fun d hd => ?_, fun f => by simp [hsum f]⟩
    · rw [List.map_append, List.map_singleton, ← List.concat_eq_append]
      exact hnodup.concat hnew
    · rcases List.mem_append.mp hd with hd | hd
      · rw [List.map_append]
        exact List.mem_append_left _ (hmem d hd)
      · simp [List.mem_singleton.mp hd]

theorem countText_tallied {text : List Symbol} {s t : State}
    (h : countText text (clearTable s) = .done t ()) : Tallied text t.ft := by
  induction text using List.reverseRecOn generalizing t with
  | nil =>
    cases h
    exact ⟨List.nodup_nil, fun _ hc => absurd hc List.not_mem_nil, fun _ => rfl⟩
  | append_singleton text c ih =>
    rw [countText_append] at h
    obtain ⟨u, _, hu, hrest⟩ := Run.bind_eq_done.mp h
    obtain ⟨w, v, hc, hw⟩ := Run.bind_eq_done.mp hrest
    cases hw
    exact (ih hu).countSymbol hc

/-! ### Encoding the text (R142, R143) -/

theorem appendBits_append (k : Slot) (a b : Bits) (s : State) :
    appendBits k (a ++ b) s = (appendBits k a s).bind fun t _ => appendBits k b t := by
  induction a generalizing s with
  | nil => rfl
  | cons v a ih =>
    rw [List.cons_append, appendBits, appendBits]
    cases appendBit k v s with
    | done t u => exact ih t
    | raised t f p => rfl
    | stuck e => rfl

/-- A completed append has written nothing but the slot (R100). -/
theorem appendBits_eq_done {k : Slot} {bs : Bits} {s t : State} (h : appendBits k bs s = .done t ()) :
    ∃ b, t = s.setBits k b := by
  induction bs generalizing s with
  | nil => cases h; exact ⟨_, (State.setBits_self _ k).symm⟩
  | cons v vs ih =>
    obtain ⟨u, _, hu, hrest⟩ := Run.bind_eq_done.mp h
    obtain ⟨b, rfl⟩ := ih hrest
    rcases appendBit_cases k v s with ⟨-, he⟩ | ⟨-, he⟩ <;> cases hu.symm.trans he
    exact ⟨b, State.setBits_setBits ..⟩

/-- A symbol of the table is encoded as its code (R141, R142). -/
theorem encodeSymbol_eq_appendBits {s : State} {c : Symbol} (k : Slot) (pos : Option Nat)
    (hcb : s.cb.length = s.ft.length) (hc : c ∈ s.ft.map Entry.sym) :
    encodeSymbol k c pos s = appendBits k (codeOf s.ft s.cb c) s := by
  obtain ⟨e, he, hsym⟩ := List.mem_map.mp hc
  have hex : ∃ x ∈ s.ft, (x.sym == c) = true := ⟨e, he, beq_iff_eq.mpr hsym⟩
  have hlt : (s.ft.findIdx fun x => x.sym == c) < s.cb.length := hcb ▸ List.findIdx_lt_length_of_exists hex
  refine encodeSymbol_of_code (List.findIdx?_eq_some_of_exists hex) ?_
  rw [codeOf, List.getD_eq_getElem _ _ hlt, List.getElem?_eq_getElem hlt]

/-- A text of symbols of the table is encoded as the codes of its characters one after another (R143). -/
theorem encodeText_eq_appendBits {s : State} {text : List Symbol} (k : Slot) (i : Nat)
    (hcb : s.cb.length = s.ft.length) (hmem : ∀ c ∈ text, c ∈ s.ft.map Entry.sym) :
    encodeText k text i s = appendBits k (text.flatMap (codeOf s.ft s.cb)) s := by
  induction text generalizing s i with
  | nil => rfl
  | cons c cs ih =>
    obtain ⟨hc, hcs⟩ := List.forall_mem_cons.mp hmem
    rw [encodeText, encodeSymbol_eq_appendBits k _ hcb hc, List.flatMap_cons, appendBits_append]
    cases hd : appendBits k (codeOf s.ft s.cb c) s with
    | done t u =>
      obtain ⟨b, rfl⟩ := appendBits_eq_done hd
      simpa using ih (s := s.setBits k b) (i + 1) (by simpa using hcb) (by simpa using hcs)
    | raised t f p => rfl
    | stuck e => rfl

/-! ### The slot that ENC.RUN fills (R101, R143) -/

section
variable (k : Slot)

theorem clearSlot_setBits (s : State) (b : Bits) : (clearSlot k s).setBits k b = s.loadSlot k b := by
  cases k <;> rfl

theorem State.bits_loadSlot (s : State) (b : Bits) : (s.loadSlot k b).bits k = b := by cases k <;> rfl

theorem State.dropTree_loadSlot (s : State) (b : Bits) :
    (s.loadSlot k b).dropTree = s.dropTree.loadSlot k b := by cases k <;> rfl

theorem appendBits_clearSlot_done {s : State} {b : Bits} (h : b.length ≤ s.bsCap) :
    appendBits k b (clearSlot k s) = .done (s.loadSlot k b) () := by
  have hnil : (clearSlot k s).bits k = [] := by simp
  rw [appendBits_done k b _ (by simpa using h), hnil, List.nil_append, clearSlot_setBits]

theorem appendBits_clearSlot_raised {s : State} {b : Bits} (h : s.bsCap < b.length) :
    appendBits k b (clearSlot k s) = .raised (s.loadSlot k (b.take s.bsCap)) .capacityExceeded none := by
  have hnil : (clearSlot k s).bits k = [] := by simp
  have hcap : (clearSlot k s).bsCap = s.bsCap := by simp
  rw [appendBits_raised k b _ (by simp) (by simpa using h), hnil, hcap, List.nil_append, clearSlot_setBits]

end

/-! ### The run -/

/-- The codes of a text's characters one after another (R143). -/
abbrev textCodes (ft : List Entry) (cb : List Bits) (text : List Symbol) : Bits := text.flatMap (codeOf ft cb)

/-- What ENC.RUN has done before it encodes: `u` is the state after the count, `t` after HT.BLD, and `cb` is the
codebook (R143). -/
structure EncodeReady (s u t : State) (cb : List Bits) : Prop where
  counted : countText s.txt (clearTable s) = .done u ()
  built : buildTree u = .done t ()
  frame : t.dropTree = u.dropTree
  codes : codesOf t = .ok cb
  table : tableCodes u.ft = some cb
  length : cb.length = u.ft.length

/-- HT.BLD and CB.DRV complete on the table of the text (R124, R140). -/
theorem exists_encodeReady {s u : State} (h : countText s.txt (clearTable s) = .done u ()) :
    ∃ t cb, EncodeReady s u t cb := by
  obtain ⟨t, ht, hv, hi, hdrop⟩ := buildTree_done u
  have hft : t.ft = u.ft := by simpa using congrArg State.ft hdrop
  obtain ⟨cb, hcb⟩ := (hi.complete hv).exists_codesOf_ok
  exact ⟨t, cb, h, ht, hdrop, hcb, hft ▸ tableCodes_of_valid hi hv hcb,
    hft ▸ ((hi.complete hv).treeCodes hcb).length⟩

namespace EncodeReady
variable {s u t : State} {cb : List Bits} (h : EncodeReady s u t cb) (k : Slot)
include h

theorem bsCap_eq : t.bsCap = s.bsCap := by
  have hkept := countText_kept (kept_refl s).clearTable fun h0 => h0.spaces.2.2
  rw [h.counted] at hkept
  obtain ⟨hparams, -⟩ := hkept
  calc t.bsCap = u.bsCap := by simpa using congrArg State.bsCap h.frame
    _ = s.bsCap := congrArg (·.2.1) hparams

theorem encodeRun_eq :
    encodeRun k s = (appendBits k (textCodes u.ft cb s.txt) (clearSlot k (t.setCodebook cb))).bind fun w _ =>
      .done w.dropTree (num (w.len k)) := by
  have hft : t.ft = u.ft := by simpa using congrArg State.ft h.frame
  have henc : encodeText k s.txt 0 (clearSlot k (t.setCodebook cb)) =
      appendBits k (textCodes u.ft cb s.txt) (clearSlot k (t.setCodebook cb)) := by
    simpa [hft] using encodeText_eq_appendBits (s := clearSlot k (t.setCodebook cb)) k 0
      (by simpa [hft] using h.length) (by simpa [hft] using (countText_tallied h.counted).mem)
  rw [encodeRun, h.counted, Run.bind_done, h.built, Run.bind_done, deriveCodebook, h.codes]
  dsimp only
  rw [Run.bind_done, henc]

/-- The codes fit: the tree is discarded, and the slot holds the codes (R143). -/
theorem encodeRun_done (hfit : (textCodes u.ft cb s.txt).length ≤ s.bsCap) :
    encodeRun k s = .done ((u.dropTree.setCodebook cb).loadSlot k (textCodes u.ft cb s.txt))
      (value (textCodes u.ft cb s.txt).length) := by
  rw [← h.bsCap_eq] at hfit
  rw [h.encodeRun_eq, appendBits_clearSlot_done (s := t.setCodebook cb) k hfit, Run.bind_done,
    State.dropTree_loadSlot, State.len_eq, State.bits_loadSlot, ← h.frame]
  rfl

/-- The codes do not fit: the slot is full, and the tree still stands (R143). -/
theorem encodeRun_raised (hover : s.bsCap < (textCodes u.ft cb s.txt).length) :
    encodeRun k s =
      .raised ((t.setCodebook cb).loadSlot k ((textCodes u.ft cb s.txt).take s.bsCap)) .capacityExceeded none := by
  rw [← h.bsCap_eq] at hover ⊢
  rw [h.encodeRun_eq, appendBits_clearSlot_raised (s := t.setCodebook cb) k hover]
  rfl

end EncodeReady

theorem exec_encRun {s : State} {k : Slot} (hf : s.fault = none) :
    exec (.encRun k) s = (encodeRun k s).finish := exec_of_legal hf nofun rfl

/-- Settles O43: the text is counted into its table, and its codes are one append. -/
theorem encodeRunEffect : Obligations.EncodeRunEffect := by
  refine ⟨fun _ => rfl, fun s k hf hcap hlen => ?_⟩
  obtain ⟨t, cb, h⟩ := exists_encodeReady (countText_clearTable hcap hlen)
  refine ⟨cb, h.table, fun hfit => ?_⟩
  rw [exec_encRun hf, h.encodeRun_done k hfit]
  rfl

/-- A text with one symbol more than the table can hold is counted up to that symbol (R91, R143). -/
theorem countText_raised {s : State} {pre post : List Symbol} {c : Symbol}
    (hlen : pre.length ≤ Config.lenCapMax) (hfull : (distinct pre).length = s.ftCap) (hc : c ∉ pre) :
    countText (pre ++ c :: post) (clearTable s) =
      .raised (s.setTable (countedTable pre)) .capacityExceeded none := by
  have hunseen : ∀ e ∈ (s.setTable (countedTable pre)).ft, e.sym ≠ c := by
    rintro e he rfl
    exact hc (mem_distinct.mp (countedTable_map_sym pre ▸ List.mem_map_of_mem he))
  have htable : (s.setTable (countedTable pre)).ft.length = (s.setTable (countedTable pre)).ftCap := by
    simpa [countedTable] using hfull
  rw [countText_append, countText_clearTable hfull.le hlen, Run.bind_done, countText,
    countSymbol_of_unseen hunseen, if_pos htable]
  rfl

/-- Settles O44: the table is full at the count of a symbol, or the slot in the one append of the codes. -/
theorem encodeRunFaults : Obligations.EncodeRunFaults := by
  refine fun s k hf hlen => ⟨fun pre c post htxt hfull hc => ?_, fun cb t hcap hcb hover hbld => ?_⟩
  · have hpre : pre.length ≤ Config.lenCapMax := by simp [htxt] at hlen; omega
    rw [exec_encRun hf, encodeRun, htxt, countText_raised hpre hfull hc]
    rfl
  · obtain ⟨t', cb', h⟩ := exists_encodeReady (countText_clearTable hcap hlen)
    cases hcb.symm.trans h.table
    cases hbld.symm.trans (exec_htBld_of_done (s := s.newTable (countedTable s.txt)) hf h.built)
    have hout : t'.out = s.out := by simpa using congrArg State.out h.frame
    rw [exec_encRun hf, h.encodeRun_raised k hover, ← hout]
    exact Run.finish_raised_eq_faulted ..

/-! ### The length of the stream (R144) -/

/-- In a table of distinct symbols each entry has its own code (R141). -/
theorem map_codeOf_sym {ft : List Entry} {cb : List Bits} (hnodup : (ft.map Entry.sym).Nodup)
    (hlen : cb.length = ft.length) : ft.map (fun e => codeOf ft cb e.sym) = cb := by
  refine List.ext_getElem (by simp [hlen]) fun i hi hi' => ?_
  have hlt : i < ft.length := hlen ▸ hi'
  have hidx : (ft.findIdx fun e => e.sym == ft[i].sym) = i := by
    refine (List.findIdx_eq hlt).mpr ⟨beq_self_eq_true _, fun j hj => beq_false_of_ne fun hsym => hj.ne ?_⟩
    exact (hnodup.getElem_inj_iff (hi := by simp; omega) (hj := by simpa using hlt)).mp (by simpa using hsym)
  rw [List.getElem_map, codeOf, hidx, List.getD_eq_getElem _ _ hi']

/-- The codes of a counted text are as long as its counts and codes say (R144 (c)). -/
theorem Tallied.length_textCodes {text : List Symbol} {ft : List Entry} {cb : List Bits} (h : Tallied text ft)
    (hlen : cb.length = ft.length) :
    (textCodes ft cb text).length = ((ft.zip cb).map fun p => p.1.cnt.toNat * p.2.length).sum :=
  calc (textCodes ft cb text).length
      = (text.map fun c => (codeOf ft cb c).length).sum := List.length_flatMap
    _ = (ft.map fun e => e.cnt.toNat * (codeOf ft cb e.sym).length).sum :=
        (h.sum fun c => (codeOf ft cb c).length).symm
    _ = ((ft.zip (ft.map fun e => codeOf ft cb e.sym)).map fun p => p.1.cnt.toNat * p.2.length).sum := by
        rw [← List.map_prod_left_eq_zip, List.map_map]
        rfl
    _ = ((ft.zip cb).map fun p => p.1.cnt.toNat * p.2.length).sum := by
        rw [map_codeOf_sym h.nodup hlen]

/-- Settles O45: a run without a fault has counted the text and appended all its codes. -/
theorem encodedLengthIsWeightedSum : Obligations.EncodedLengthIsWeightedSum := by
  intro s t k hexec hs ht
  rw [exec_encRun hs] at hexec
  rcases Run.finish_next hexec with ⟨w, v, hrun, rfl⟩ | ⟨w, f, p, -, rfl⟩
  · obtain ⟨u, _, hcount, -⟩ := Run.bind_eq_done.mp hrun
    obtain ⟨t, cb, h⟩ := exists_encodeReady hcount
    rcases le_or_gt (textCodes u.ft cb s.txt).length s.bsCap with hfit | hover
    · cases hrun.symm.trans (h.encodeRun_done k hfit)
      have hlen := (countText_tallied hcount).length_textCodes h.length
      simpa [State.loadSlot_eq, h.length] using hlen
    · cases hrun.symm.trans (h.encodeRun_raised k hover)
  · simp at ht

end Sys2Proof.Machine

/-! ## The commands of the decoder (44_decoder.md R150 to R152) -/

namespace Sys2Proof.Machine

/-! ### The Requires line (R36, R199) -/

theorem finish_require_hasTree (s : State) (r : Run Word) :
    (require s.hasTree s r).finish = if s.tst = .valid then r.finish else faulted s .illegalCommand none := by
  by_cases hv : s.tst = .valid
  · rw [if_pos hv, hasTree_iff.mpr hv, require_true]
  · rw [if_neg hv, Bool.eq_false_iff.mpr (mt hasTree_iff.mp hv), require_false]
    rfl

section
variable {s t : State} (hf : s.fault = none)
include hf

theorem exec_decRst : exec .decRst s =
    if s.tst = .valid then answered (walkToRoot s) 0#64 else faulted s .illegalCommand none :=
  (exec_of_legal (i := .decRst) hf nofun rfl).trans (finish_require_hasTree s _)

theorem exec_decEnd : exec .decEnd s =
    if s.tst = .valid then ((checkEnd s).bind fun u _ => .done u 0#64).finish
    else faulted s .illegalCommand none :=
  (exec_of_legal (i := .decEnd) hf nofun rfl).trans (finish_require_hasTree s _)

theorem exec_decBit (v : Word32) : exec (.decBit v) s =
    if s.tst = .valid then (decodeOperand v s).finish else faulted s .illegalCommand none :=
  (exec_of_legal (i := .decBit v) hf nofun rfl).trans (finish_require_hasTree s _)

theorem exec_decBit_of_raised {v : Word32} {b : Bool} {k : FaultKind} {pos : Option Nat}
    (hv : s.tst = .valid) (hb : bitOperand v = some b) (hd : decodeBit b s = .raised t k pos) :
    exec (.decBit v) s = faulted t k pos := by
  rw [exec_decBit hf, if_pos hv, decodeOperand, hb]
  dsimp only
  rw [hd, Run.bind_raised, Run.finish_raised_eq_faulted]

theorem exec_decBit_of_done {v : Word32} {b : Bool} {e : Option Symbol}
    (hv : s.tst = .valid) (hb : bitOperand v = some b) (hd : decodeBit b s = .done t e) :
    exec (.decBit v) s = answered t (emitted e) := by
  rw [exec_decBit hf, if_pos hv, decodeOperand, hb]
  dsimp only
  rw [hd]
  rfl

end

/-! ### The end of the stream (R152) -/

theorem checkEnd_of_trailing {s : State} (hn : 2 ≤ s.nd.length) (hw : s.walk ≠ s.root) :
    checkEnd s = .raised s .trailingBits (some s.dpos.toNat) := if_pos ⟨hn, hw⟩

theorem checkEnd_of_root {s : State} (h : s.walk = s.root) : checkEnd s = .done s () :=
  if_neg fun ⟨_, hw⟩ => hw h

theorem checkEnd_eq_done {s t : State} :
    checkEnd s = .done t () ↔ t = s ∧ ¬(2 ≤ s.nd.length ∧ s.walk ≠ s.root) := by
  unfold checkEnd
  split
  next h => exact iff_of_false nofun fun ⟨_, hn⟩ => hn h
  next h => exact ⟨fun hd => by cases hd; exact ⟨rfl, h⟩, fun ⟨ht, _⟩ => ht ▸ rfl⟩

/-- Settles O46, from the Requires line and the test of R152. -/
theorem decodeWalkControl : Obligations.DecodeWalkControl := by
  refine ⟨rfl, rfl, fun s hf => ⟨exec_decRst hf, ?_⟩⟩
  rw [exec_decEnd hf]
  congr 1
  by_cases hend : s.nd.length ≥ 2 ∧ s.walk ≠ s.root
  · obtain ⟨hn, hw⟩ := hend
    rw [if_pos ⟨hn, hw⟩, checkEnd_of_trailing hn hw, Run.bind_raised, Run.finish_raised_eq_faulted]
  · rw [if_neg hend, checkEnd_eq_done.mpr ⟨rfl, hend⟩]
    rfl

/-! ### One bit (R151) -/

section
variable {s : State} (v : Bool)

theorem decodeBit_of_nil (h : s.nd = []) : decodeBit v s = .done (consumeBit s.walk s) none := by
  simp [decodeBit, h]

theorem decodeBit_of_lone {sym : Symbol} {f : Nat} (h : s.nd = [.leaf sym f]) :
    decodeBit v s = .done (consumeBit s.walk s) (some sym) := by
  simp [decodeBit, h]

theorem decodeBit_eq_walkStep (hn : 2 ≤ s.nd.length) : decodeBit v s = walkStep v s := by
  rw [decodeBit, if_neg (by omega), if_neg (by omega)]

theorem decodeBit_on_leaf (hn : 2 ≤ s.nd.length) {sym : Symbol} {f : Nat}
    (hw : s.nd[s.walk]? = some (.leaf sym f)) :
    decodeBit v s = .raised s .corruptStream (some s.dpos.toNat) := by
  rw [decodeBit_eq_walkStep v hn, walkStep, hw]

section
variable {v} (hn : 2 ≤ s.nd.length) {f l r c : Nat} (hw : s.nd[s.walk]? = some (.internal f l r))
  (hc : (if v then r else l) = c)
include hn hw hc

theorem decodeBit_to_leaf {sym : Symbol} {g : Nat} (hleaf : s.nd[c]? = some (.leaf sym g)) :
    decodeBit v s = .done (consumeBit s.root s) (some sym) := by
  rw [decodeBit_eq_walkStep v hn, walkStep, hw]
  dsimp only
  rw [hc, hleaf]

theorem decodeBit_to_internal (hint : isInternal s.nd c = true) :
    decodeBit v s = .done (consumeBit c s) none := by
  obtain ⟨g, l', r', hx⟩ := isInternal_iff.mp hint
  rw [decodeBit_eq_walkStep v hn, walkStep, hw]
  dsimp only
  rw [hc, hx]

end

end

/-- An operand of at most 1 is read as a bit that names the child (R151). -/
theorem exists_bitOperand {v : Word32} (hv : v.toNat ≤ 1) (l r : Nat) :
    ∃ b, bitOperand v = some b ∧ (if b then r else l) = if v = 0#32 then l else r := by
  obtain rfl | rfl : v = 0#32 ∨ v = 1#32 := by bv_omega
  · exact ⟨false, rfl, rfl⟩
  · exact ⟨true, rfl, rfl⟩

/-- Settles O47, a case of R151 after another. -/
theorem decodeBitEffect : Obligations.DecodeBitEffect := by
  refine ⟨fun _ => rfl, fun s v hf => ⟨fun hv => ?_, fun hv hbig => ?_, fun hv hle => ?_⟩⟩
  · rw [exec_decBit hf, if_neg hv]
  · rw [exec_decBit hf, if_pos hv, decodeOperand, bitOperand, if_pos hbig]
    exact Run.finish_raised_eq_faulted ..
  · obtain ⟨b, hb, -⟩ := exists_bitOperand hle 0 0
    refine ⟨fun hnil => exec_decBit_of_done hf hv hb (decodeBit_of_nil b hnil),
      fun sym f hlone => exec_decBit_of_done hf hv hb (decodeBit_of_lone b hlone), fun hn =>
      ⟨fun sym f hleaf => exec_decBit_of_raised hf hv hb (decodeBit_on_leaf b hn hleaf),
        fun f l r hw => ?_⟩⟩
    obtain ⟨b, hb, hc⟩ := exists_bitOperand hle l r
    exact ⟨fun sym g hleaf => exec_decBit_of_done hf hv hb (decodeBit_to_leaf hn hw hc hleaf),
      fun g l' r' hint => exec_decBit_of_done hf hv hb
        (decodeBit_to_internal hn hw hc (isInternal_iff.mpr ⟨g, l', r', hint⟩))⟩

end Sys2Proof.Machine

/-! ## DEC.RUN (44_decoder.md R153, R154)

A code leads from the root of the tree to a leaf and back to the root, so a stream of codes is decoded code by
code; between two codes nothing is left to say of the bits before. -/

namespace Sys2Proof.Machine

/-! ### The states of a decoding (R153) -/

theorem emit_of_lt {s : State} {sym : Symbol} (h : s.txt.length < s.txtCap) :
    emit (some sym) s = .done { s with txt := s.txt ++ [sym] } () := by
  rw [emit, pushSymbol, if_neg h.ne, Run.bind_done]

theorem emit_of_full {s : State} {sym : Symbol} (h : s.txt.length = s.txtCap) :
    emit (some sym) s = .raised s .capacityExceeded none := by
  rw [emit, pushSymbol, if_pos h, Run.bind_raised]

/-- A state in the middle of a decoding: the walk moved, `n` bits consumed, these symbols emitted. -/
def State.decoding (s : State) (w n : Nat) (text : List Symbol) : State :=
  { s with walk := w, dpos := BitVec.ofNat 32 n, txt := text }

section
variable (s : State) (w w' n : Nat) (text : List Symbol)

@[simp] theorem State.decoding_walk : (s.decoding w n text).walk = w := rfl
@[simp] theorem State.decoding_dpos : (s.decoding w n text).dpos = BitVec.ofNat 32 n := rfl

theorem consumeBit_decoding : consumeBit w' (s.decoding w n text) = s.decoding w' (n + 1) text := by
  rw [State.decoding, State.decoding, consumeBit, ← BitVec.ofNat_add]

end

section
variable {s : State} {w n : Nat} {text : List Symbol}

theorem emit_decoding_of_lt {sym : Symbol} (h : text.length < s.txtCap) :
    emit (some sym) (s.decoding w n text) = .done (s.decoding w n (text ++ [sym])) () :=
  emit_of_lt (s := s.decoding w n text) h

theorem emit_decoding_of_full {sym : Symbol} (h : text.length = s.txtCap) :
    emit (some sym) (s.decoding w n text) = .raised (s.decoding w n text) .capacityExceeded none :=
  emit_of_full (s := s.decoding w n text) h

end

theorem decodeBits_append (a b : Bits) (s : State) :
    decodeBits (a ++ b) s = (decodeBits a s).bind fun t _ => decodeBits b t := by
  induction a generalizing s with
  | nil => rfl
  | cons v a ih =>
    rw [List.cons_append, decodeBits, decodeBits]
    cases decodeBit v s with
    | done t e =>
      rw [Run.bind_done, Run.bind_done]
      cases emit e t with
      | done u x => exact ih u
      | raised u k p => rfl
      | stuck f => rfl
    | raised t k p => rfl
    | stuck f => rfl

theorem decodeBits_cons_of_done {v : Bool} {vs : Bits} {s t : State} {e : Option Symbol}
    (h : decodeBit v s = .done t e) :
    decodeBits (v :: vs) s = (emit e t).bind fun u _ => decodeBits vs u := by
  rw [decodeBits, h, Run.bind_done]

theorem decodeBits_singleton_of_done {v : Bool} {s t : State} {e : Option Symbol}
    (h : decodeBit v s = .done t e) : decodeBits [v] s = emit e t := by
  rw [decodeBits_cons_of_done h]
  cases emit e t <;> rfl

/-! ### A path of the tree (R151) -/

theorem isInternal_of_follow {nd : List Node} {k j : Nat} {c : Bits} (hc : follow nd k c = some j)
    (hj : isInternal nd j = true) : isInternal nd k = true := by
  cases c with
  | nil => exact Option.some.inj hc ▸ hj
  | cons b c =>
    obtain ⟨f, l, r, hk, -⟩ := follow_cons_eq_some.mp hc
    exact isInternal_iff.mpr ⟨f, l, r, hk⟩

section
variable {s : State} (hn : 2 ≤ s.nd.length)
include hn

/-- The walk follows a path that ends at an internal node, and emits nothing. -/
theorem decodeBits_path {w j : Nat} {c : Bits} (hc : follow s.nd w c = some j)
    (hj : isInternal s.nd j = true) (n : Nat) (text : List Symbol) :
    decodeBits c (s.decoding w n text) = .done (s.decoding j (n + c.length) text) () := by
  induction c generalizing w n with
  | nil => cases hc; rfl
  | cons b c ih =>
    obtain ⟨f, l, r, hw, hchild⟩ := follow_cons_eq_some.mp hc
    rw [decodeBits_cons_of_done (decodeBit_to_internal (s := s.decoding w n text) hn hw rfl
      (isInternal_of_follow hchild hj)), consumeBit_decoding, emit, Run.bind_done, ih hchild,
      List.length_cons, Nat.add_assoc, Nat.add_comm 1]

end

/-- From the root these bits lead to the emission of the symbol, and back to the root. -/
def State.Emits (s : State) (c : Bits) (sym : Symbol) : Prop :=
  ∀ n text, decodeBits c (s.decoding s.root n text) = emit (some sym) (s.decoding s.root (n + c.length) text)

/-- A path from the root to a leaf emits the symbol of the leaf with its last bit. -/
theorem State.emits_of_follow {s : State} {i g : Nat} {c : Bits} {sym : Symbol} (hn : 2 ≤ s.nd.length)
    (hroot : isInternal s.nd s.root = true) (hc : follow s.nd s.root c = some i)
    (hi : s.nd[i]? = some (.leaf sym g)) : s.Emits c sym := by
  intro n text
  rcases List.eq_nil_or_concat' c with rfl | ⟨p, b, rfl⟩
  · cases hc
    obtain ⟨f, l, r, hint⟩ := isInternal_iff.mp hroot
    cases hi.symm.trans hint
  · rw [follow_append] at hc
    obtain ⟨j, hp, hlast⟩ := Option.bind_eq_some_iff.mp hc
    obtain ⟨f, l, r, hj, hchild⟩ := follow_cons_eq_some.mp hlast
    rw [decodeBits_append, decodeBits_path hn hp (isInternal_iff.mpr ⟨f, l, r, hj⟩), Run.bind_done,
      decodeBits_singleton_of_done (decodeBit_to_leaf (s := s.decoding j (n + p.length) text) hn hj
        (Option.some.inj hchild) hi), consumeBit_decoding, List.length_append, ← Nat.add_assoc]
    rfl

/-- In a one-node tree every bit emits the symbol of the node. -/
theorem State.emits_of_lone {s : State} {sym : Symbol} {f : Nat} (h : s.nd = [.leaf sym f]) (b : Bool) :
    s.Emits [b] sym := fun n text => by
  rw [decodeBits_singleton_of_done (decodeBit_of_lone (s := s.decoding s.root n text) b h),
    consumeBit_decoding]
  rfl

/-- The empty tree emits nothing. -/
theorem decodeBits_of_nil {s : State} (h : s.nd = []) (bs : Bits) (w n : Nat) (text : List Symbol) :
    decodeBits bs (s.decoding w n text) = .done (s.decoding w (n + bs.length) text) () := by
  induction bs generalizing n with
  | nil => rfl
  | cons b bs ih =>
    rw [decodeBits_cons_of_done (decodeBit_of_nil (s := s.decoding w n text) b h), consumeBit_decoding, emit,
      Run.bind_done, State.decoding_walk, ih, List.length_cons, Nat.add_assoc, Nat.add_comm 1]

/-! ### A stream of codes (R153) -/

section
variable {α : Type} {s : State} {sym : α → Symbol} {code : α → Bits} {l : List α}
  (hl : ∀ a ∈ l, s.Emits (code a) (sym a))
include hl

theorem decodeBits_codes (n : Nat) {text : List Symbol} (hcap : text.length + l.length ≤ s.txtCap) :
    decodeBits (l.flatMap code) (s.decoding s.root n text) =
      .done (s.decoding s.root (n + (l.flatMap code).length) (text ++ l.map sym)) () := by
  induction l generalizing n text with
  | nil => rw [List.map_nil, List.append_nil]; rfl
  | cons a l ih =>
    obtain ⟨ha, hrest⟩ := List.forall_mem_cons.mp hl
    rw [List.length_cons] at hcap
    rw [List.flatMap_cons, decodeBits_append, ha, emit_decoding_of_lt (by omega), Run.bind_done,
      ih hrest _ (by rw [List.length_append, List.length_singleton]; omega), List.length_append,
      Nat.add_assoc, List.map_cons, List.append_assoc, List.singleton_append]

/-- The code of one symbol more than `TXT` holds is consumed, and the symbol is not appended. -/
theorem decodeBits_codes_full {c tail : Bits} {y : Symbol} (hc : s.Emits c y) (hcap : l.length = s.txtCap) :
    decodeBits (l.flatMap code ++ c ++ tail) (s.decoding s.root 0 []) =
      .raised (s.decoding s.root ((l.flatMap code).length + c.length) (l.map sym)) .capacityExceeded none := by
  rw [decodeBits_append, decodeBits_append, decodeBits_codes hl 0 (by simpa using hcap.le), Run.bind_done, hc,
    Nat.zero_add, List.nil_append, emit_decoding_of_full (by rw [List.length_map, hcap]), Run.bind_raised]

end

/-! ### The codes of a complete tree (R140) -/

theorem State.TreeComplete.isInternal_root {s : State} (h : s.TreeComplete) (hn : 2 ≤ s.ft.length) :
    isInternal s.nd s.root = true := by
  have hroot := h.root_eq
  have hlen := h.nd_length
  exact isInternal_of_internalOk (h.forestOk.internal (by omega) (by omega))

/-- The tree of a table of at most one entry has no other node (R122). -/
theorem State.TreeComplete.nd_eq_leaves {s : State} (h : s.TreeComplete) (hn : s.ft.length ≤ 1) :
    s.nd = leaves s.ft := by
  have hlen := h.nd_length
  obtain ⟨-, -, hleaves, -⟩ := h.forestOk
  rwa [List.take_of_length_le (by omega)] at hleaves

section
variable {s : State} {cb : List Bits} (h : s.TreeComplete) (hcodes : TreeCodes s cb)
include h hcodes

/-- The code of an entry emits its symbol. -/
theorem TreeCodes.emits {i : Nat} {e : Entry} {c : Bits} (he : s.ft[i]? = some e) (hc : cb[i]? = some c) :
    s.Emits c e.sym := by
  obtain ⟨hi, hget⟩ := List.getElem?_eq_some_iff.mp he
  rcases Nat.lt_or_ge s.ft.length 2 with hlt | hn
  · obtain rfl : i = 0 := by omega
    have hone : s.ft.length = 1 := by omega
    obtain ⟨x, hx⟩ := List.length_eq_one_iff.mp hone
    have hnd := h.nd_eq_leaves hone.le
    rw [hx] at he hnd
    rw [hcodes.lone hone] at hc
    cases he
    cases hc
    exact State.emits_of_lone hnd false
  · have hlen := h.nd_length
    obtain ⟨-, hfollow⟩ := hcodes.follow_eq hn hc
    have hleaf := h.forestOk.leaf hi
    rw [hget] at hleaf
    exact State.emits_of_follow (by omega) (h.isInternal_root hn) hfollow hleaf

theorem TreeCodes.emits_of_mem_zip {p : Entry × Bits} (hp : p ∈ s.ft.zip cb) : s.Emits p.2 p.1.sym := by
  obtain ⟨i, hi⟩ := List.mem_iff_getElem?.mp hp
  obtain ⟨he, hc⟩ := List.getElem?_zip_eq_some.mp hi
  exact hcodes.emits h he hc

/-- The code that the encoder takes for a symbol of the table emits that symbol (R141). -/
theorem TreeCodes.emits_codeOf {c : Symbol} (hc : c ∈ s.ft.map Entry.sym) : s.Emits (codeOf s.ft cb c) c := by
  obtain ⟨e, he, hsym⟩ := List.mem_map.mp hc
  have hex : ∃ x ∈ s.ft, (x.sym == c) = true := ⟨e, he, beq_iff_eq.mpr hsym⟩
  have hlt := List.findIdx_lt_length_of_exists hex
  have hlt' := hcodes.length ▸ hlt
  have hfirst : (s.ft[s.ft.findIdx fun x => x.sym == c]).sym = c :=
    beq_iff_eq.mp (List.findIdx_getElem (w := hlt))
  rw [codeOf, List.getD_eq_getElem _ _ hlt']
  have := hcodes.emits h (List.getElem?_eq_getElem hlt) (List.getElem?_eq_getElem hlt')
  rwa [hfirst] at this

end

end Sys2Proof.Machine

namespace Sys2Proof.Machine

/-! ### The run (R153) -/

/-- What DEC.RUN has done before it decodes: `t` is the state after HT.BLD. -/
structure DecodeReady (s t : State) : Prop where
  built : buildTree s = .done t ()
  fromTable : BuiltFrom s t
  out_eq : t.out = s.out

theorem exists_decodeReady (s : State) : ∃ t, DecodeReady s t := by
  obtain ⟨t, hd, hv, -, hdrop⟩ := buildTree_done s
  have ht := mergeLoop_treeFrom (initTree_treeFrom s) hd
  exact ⟨t, hd, { ht with valid := hv }, by simpa using congrArg State.out hdrop⟩

theorem exec_decRun {s : State} {k : Slot} (hf : s.fault = none) :
    exec (.decRun k) s = (decodeRun k s).finish := exec_of_legal hf nofun rfl

namespace DecodeReady
variable {s t : State} (h : DecodeReady s t)
include h

theorem treeCodes {cb : List Bits} (hcb : tableCodes s.ft = some cb) : TreeCodes t cb := by
  have ht := h.fromTable
  obtain ⟨cb', hcb'⟩ := ht.complete.exists_codesOf_ok
  have hcodes := tableCodes_of_valid ht.inv ht.valid hcb'
  rw [ht.ft_eq, hcb] at hcodes
  exact Option.some.inj hcodes ▸ ht.complete.treeCodes hcb'

theorem emits_of_mem_zip {cb : List Bits} (hcb : tableCodes s.ft = some cb) {p : Entry × Bits}
    (hp : p ∈ s.ft.zip cb) : t.Emits p.2 p.1.sym := by
  rw [← h.fromTable.ft_eq] at hp
  exact (h.treeCodes hcb).emits_of_mem_zip h.fromTable.complete hp

theorem emits_of_lone {e : Entry} (he : s.ft = [e]) (b : Bool) : t.Emits [b] e.sym := by
  have hft := h.fromTable.ft_eq.trans he
  have hnd := h.fromTable.complete.nd_eq_leaves (by simp [hft])
  rw [hft] at hnd
  exact State.emits_of_lone hnd b

theorem txtCap_eq : t.txtCap = s.txtCap := by simpa using congrArg State.txtCap h.fromTable.frame

/-- A state of the decoding, item by item (R153). -/
theorem decoding_eq (w n : Nat) (text : List Symbol) :
    t.decoding w n text = { s with
      nd := t.nd, root := t.root, pq := t.pq, nextSeq := t.nextSeq, walk := w, tst := .valid,
      dpos := BitVec.ofNat 32 n, txt := text } := by
  have heq := h.fromTable.eq_setTree
  rw [h.out_eq] at heq
  conv_lhs => rw [heq]
  rfl

theorem decodeRun_eq (k : Slot) :
    decodeRun k s = (decodeBits (s.bits k) (t.decoding t.root 0 [])).bind fun u _ =>
      (checkEnd u).bind fun w _ => .done w.dropTree (num w.txt.length) := by
  obtain ⟨hwalk, hdpos⟩ := h.fromTable.atRoot h.fromTable.valid
  have hstart : { t with txt := [] } = t.decoding t.root 0 [] := by
    rw [State.decoding, ← hwalk, ← hdpos]
  rw [decodeRun, h.built, Run.bind_done, hstart]

variable {k : Slot} (hf : s.fault = none)
include hf

/-- The stream ends at the root: the tree is discarded (R153). -/
theorem exec_of_done {n : Nat} {text : List Symbol}
    (hd : decodeBits (s.bits k) (t.decoding t.root 0 []) = .done (t.decoding t.root n text) ()) :
    exec (.decRun k) s = answered { s.noTree with txt := text } (value text.length) := by
  rw [exec_decRun hf, h.decodeRun_eq, hd, Run.bind_done, checkEnd_of_root rfl, Run.bind_done,
    h.decoding_eq]
  rfl

theorem exec_of_raised {u : State} {f : FaultKind} {pos : Option Nat}
    (hd : decodeBits (s.bits k) (t.decoding t.root 0 []) = .raised u f pos) :
    exec (.decRun k) s = faulted u f pos := by
  rw [exec_decRun hf, h.decodeRun_eq, hd, Run.bind_raised, Run.finish_raised_eq_faulted]

/-- The stream ends inside a code: TrailingBits at its length (R152, R153). -/
theorem exec_of_trailing (hn : 2 ≤ t.nd.length) {w n : Nat} {text : List Symbol} (hw : w ≠ t.root)
    (hd : decodeBits (s.bits k) (t.decoding t.root 0 []) = .done (t.decoding w n text) ()) :
    exec (.decRun k) s = faulted (t.decoding w n text) .trailingBits (some n) := by
  rw [exec_decRun hf, h.decodeRun_eq, hd, Run.bind_done, checkEnd_of_trailing (s := t.decoding w n text) hn hw,
    Run.bind_raised, Run.finish_raised_eq_faulted, State.decoding_dpos]
  simp only [faulted, Option.getD_some, Option.isSome_some, BitVec.ofNat_toNat, BitVec.setWidth_eq]

/-- A stream of codes whose symbols fit `TXT` is decoded into them (R153). -/
theorem exec_of_codes {α : Type} {sym : α → Symbol} {code : α → Bits} {l : List α}
    (hl : ∀ a ∈ l, t.Emits (code a) (sym a)) (hbits : s.bits k = l.flatMap code) (hcap : l.length ≤ s.txtCap) :
    exec (.decRun k) s = answered { s.noTree with txt := l.map sym } (value l.length) := by
  have hd := decodeBits_codes hl 0 (text := []) (by simpa [h.txtCap_eq] using hcap)
  rw [← hbits] at hd
  rw [h.exec_of_done hf hd, List.nil_append, List.length_map]

end DecodeReady

/-- Settles O48: the stream is one of codes, where in a one-node tree every bit is one. -/
theorem decodeRunEffect : Obligations.DecodeRunEffect := by
  refine ⟨fun _ => rfl, fun s k hf => ?_⟩
  obtain ⟨t, h⟩ := exists_decodeReady s
  refine ⟨fun hnil => ?_, fun e he hcap => ?_, fun _ => ?_⟩
  · have hnd : t.nd = [] := List.length_eq_zero_iff.mp (by rw [h.fromTable.nd_length, hnil]; rfl)
    exact h.exec_of_done hf (decodeBits_of_nil hnd _ _ _ _)
  · rw [← List.map_const']
    exact h.exec_of_codes hf (fun b _ => h.emits_of_lone he b) (List.flatMap_singleton' _).symm hcap
  · obtain ⟨cb, hcb⟩ := h.fromTable.complete.exists_codesOf_ok
    have htable := h.fromTable.ft_eq ▸ tableCodes_of_valid h.fromTable.inv h.fromTable.valid hcb
    exact ⟨cb, htable, fun es hes hbits hcap =>
      h.exec_of_codes hf (fun p hp => h.emits_of_mem_zip htable (hes p hp)) hbits hcap⟩

/-! ### Where the run faults (R195, R197) -/

/-- A path descends, by at least one node for each of its bits (R40). -/
theorem State.ForestOk.follow_add_length_le {s : State} (h : s.ForestOk) {k j : Nat} {c : Bits}
    (hc : follow s.nd k c = some j) : j + c.length ≤ k := by
  induction c generalizing k with
  | nil => exact (Option.some.inj hc).ge
  | cons b c ih =>
    obtain ⟨f, l, r, hk, hchild⟩ := follow_cons_eq_some.mp hc
    obtain ⟨-, hl, hr⟩ := h.of_internal hk
    have hlt : (if b then r else l) < k := by cases b <;> assumption
    have := ih hchild
    rw [List.length_cons]
    omega

/-- A proper non-empty part of a code leads to an internal node other than the root (R140). -/
theorem TreeCodes.follow_part {s : State} {cb : List Bits} (h : s.TreeComplete) (hcodes : TreeCodes s cb)
    (hn : 2 ≤ s.ft.length) {c part : Bits} (hc : c ∈ cb) (hpart : part <+: c) (hne : part ≠ c)
    (hnil : part ≠ []) :
    ∃ j, follow s.nd s.root part = some j ∧ isInternal s.nd j = true ∧ j ≠ s.root := by
  obtain ⟨i, hi⟩ := List.mem_iff_getElem?.mp hc
  obtain ⟨-, hfollow⟩ := hcodes.follow_eq hn hi
  obtain ⟨rest, rfl⟩ := hpart
  rw [follow_append] at hfollow
  obtain ⟨j, hj, hrest⟩ := Option.bind_eq_some_iff.mp hfollow
  refine ⟨j, hj, ?_, ?_⟩
  · cases rest with
    | nil => exact absurd (List.append_nil part).symm hne
    | cons b rest =>
      obtain ⟨f, l, r, hint, -⟩ := follow_cons_eq_some.mp hrest
      exact isInternal_iff.mpr ⟨f, l, r, hint⟩
  · have := h.forestOk.follow_add_length_le hj
    have := List.length_pos_iff.mpr hnil
    omega

/-- Settles O49: after the codes before it, the last part of the stream leads to a node below the root, or the
code of one symbol too many is consumed. -/
theorem decodeRunFaults : Obligations.DecodeRunFaults := by
  refine ⟨fun s k e hf he hlong => ?_, fun s k cb es p tail hf hn hcb hes hp => ⟨?_, ?_⟩⟩ <;>
    obtain ⟨t, h⟩ := exists_decodeReady s
  · obtain ⟨a, b, rest, hsplit, ha⟩ : ∃ (a : Bits) (b : Bool) (rest : Bits), s.bits k =
        a.flatMap (fun b => [b]) ++ [b] ++ rest ∧
        a.length = s.txtCap := by
      refine ⟨(s.bits k).take s.txtCap, (s.bits k)[s.txtCap], (s.bits k).drop (s.txtCap + 1), ?_, ?_⟩
      · rw [List.flatMap_singleton', List.append_assoc, List.singleton_append, List.getElem_cons_drop,
          List.take_append_drop]
      · rw [List.length_take, Nat.min_eq_left hlong.le]
    have hroot : t.root = 0 := by
      rw [h.fromTable.complete.root_eq, h.fromTable.nd_length, he]
      rfl
    have hd := decodeBits_codes_full (l := a) (fun b _ => h.emits_of_lone he b) (tail := rest)
      (h.emits_of_lone he b) (ha.trans h.txtCap_eq.symm)
    rw [← hsplit, List.flatMap_singleton', List.map_const', List.length_singleton, ha] at hd
    refine ⟨_, h.exec_of_raised hf hd, ?_⟩
    rw [h.decoding_eq, hroot]
  · intro hbits hnil hpart hne hcap
    have hft := h.fromTable.ft_eq
    obtain ⟨j, hj, hint, hroot⟩ := (h.treeCodes hcb).follow_part h.fromTable.complete (hft ▸ hn)
      (List.of_mem_zip hp).2 hpart hne hnil
    have hnd : 2 ≤ t.nd.length := by rw [h.fromTable.nd_length]; omega
    have hd := decodeBits_codes (fun q hq => h.emits_of_mem_zip hcb (hes q hq)) 0 (text := [])
      (by simpa [h.txtCap_eq] using hcap)
    have hrun : decodeBits (s.bits k) (t.decoding t.root 0 []) =
        .done (t.decoding j (s.bits k).length (es.map fun q => q.1.sym)) () := by
      rw [hbits, decodeBits_append, hd, Run.bind_done, decodeBits_path hnd hj hint, List.length_append,
        Nat.zero_add, List.nil_append]
    exact ⟨_, h.exec_of_trailing hf hnd hroot hrun, h.decoding_eq ..⟩
  · intro hbits hcap
    have hd := decodeBits_codes_full (fun q hq => h.emits_of_mem_zip hcb (hes q hq)) (tail := tail)
      (h.emits_of_mem_zip hcb hp) (hcap.trans h.txtCap_eq.symm)
    rw [← hbits] at hd
    exact ⟨_, h.exec_of_raised hf hd, h.decoding_eq ..⟩

end Sys2Proof.Machine

namespace Sys2Proof.Machine

/-! ### One DEC.BIT for each bit (R154 (b))

DEC.BIT answers what DEC.RUN writes to `TXT`; for the rest both do the same. -/

/-- The state with another text, and other responses given. -/
def State.withHost (s : State) (text : List Symbol) (log : List Response) : State :=
  { s with txt := text, out := log }

/-- Everything a completed step of the walk can have done (R151). -/
theorem walkStep_eq_done {v : Bool} {s t : State} {e : Option Symbol} (h : walkStep v s = .done t e) :
    ∃ f l r c, s.nd[s.walk]? = some (.internal f l r) ∧ (if v then r else l) = c ∧
      ((∃ sym g, s.nd[c]? = some (.leaf sym g) ∧ t = consumeBit s.root s ∧ e = some sym) ∨
        isInternal s.nd c = true ∧ t = consumeBit c s ∧ e = none) := by
  unfold walkStep at h
  split at h
  next => cases h
  next => cases h
  next f l r hw =>
    refine ⟨f, l, r, _, hw, rfl, ?_⟩
    dsimp only at h
    split at h
    next => cases h
    next sym g hleaf => cases h; exact .inl ⟨sym, g, hleaf, rfl, rfl⟩
    next g l' r' hint => cases h; exact .inr ⟨isInternal_iff.mpr ⟨g, l', r', hint⟩, rfl, rfl⟩

/-- A bit of the decoder neither reads nor writes `TXT` and the responses (R151). -/
theorem decodeBit_withHost {v : Bool} {s t : State} {e : Option Symbol} (h : decodeBit v s = .done t e)
    (text : List Symbol) (log : List Response) :
    decodeBit v (s.withHost text log) = .done (t.withHost text log) e := by
  unfold decodeBit at h
  split_ifs at h with h0 h1
  · cases h
    exact decodeBit_of_nil v (List.length_eq_zero_iff.mp h0)
  · split at h
    next sym f hlone =>
      cases h
      obtain ⟨x, hx⟩ := List.length_eq_one_iff.mp h1
      rw [hx] at hlone
      cases hlone
      exact decodeBit_of_lone v hx
    next => cases h
  · have hn : 2 ≤ s.nd.length := by omega
    obtain ⟨f, l, r, c, hw, hc, ⟨sym, g, hleaf, rfl, rfl⟩ | ⟨hint, rfl, rfl⟩⟩ := walkStep_eq_done h
    · exact decodeBit_to_leaf (s := s.withHost text log) hn hw hc hleaf
    · exact decodeBit_to_internal (s := s.withHost text log) hn hw hc hint

theorem emit_eq_done {e : Option Symbol} {s t : State} (h : emit e s = .done t ()) :
    t = s.withHost (s.txt ++ e.toList) s.out := by
  cases e with
  | none => cases h; simp [State.withHost]
  | some sym =>
    rw [emit, pushSymbol] at h
    split at h
    · cases h
    · cases h; rfl

/-- A response of DEC.BIT carries the symbol emitted, if any (R74). -/
theorem emittedSym_emitted (e : Option Symbol) : emittedSym ⟨.ok, emitted e⟩ = e := by
  cases e with
  | none => rfl
  | some sym =>
    have hlt : sym.toNat < 2 ^ 21 := sym.isLt
    have hval : (emitted (some sym)).toNat = 2 ^ 32 + sym.toNat := Nat.mod_eq_of_lt (by omega)
    have hsym : (emitted (some sym)).setWidth 21 = sym := by
      apply BitVec.eq_of_toNat_eq
      rw [BitVec.toNat_setWidth, hval]
      omega
    rw [emittedSym, if_neg (by rw [hval]; omega), hsym]

/-- The command that decodes a bit. -/
abbrev bitCommand (b : Bool) : Instr := .decBit (if b then 1#32 else 0#32)

theorem execSeq_bitCommand {bs : Bits} {s t : State} (hf : s.fault = none) (hv : s.tst = .valid)
    (h : decodeBits bs s = .done t ()) (text : List Symbol) (out : List Response) :
    ∃ log, t.txt = s.txt ++ log.filterMap emittedSym ∧
      execSeq (bs.map bitCommand) (s.withHost text out) = .next (t.withHost text (out ++ log)) := by
  induction bs generalizing s out with
  | nil => cases h; exact ⟨[], by simp, by simp [execSeq]⟩
  | cons b bs ih =>
    obtain ⟨u, e, hbit, hrest⟩ := Run.bind_eq_done.mp h
    obtain ⟨w, _, hemit, hbits⟩ := Run.bind_eq_done.mp hrest
    have hwrites := decodeBit_sat b s
    rw [hbit] at hwrites
    obtain ⟨walk, rfl, -⟩ := hwrites
    obtain rfl := emit_eq_done hemit
    have hexec : exec (bitCommand b) (s.withHost text out) =
        .next ((consumeBit walk s).withHost text (out ++ [⟨.ok, emitted e⟩])) :=
      exec_decBit_of_done (s := s.withHost text out) hf hv (b := b) (by cases b <;> rfl)
        (decodeBit_withHost hbit text out)
    obtain ⟨log, htxt, hlog⟩ :=
      ih (s := (consumeBit walk s).withHost (s.txt ++ e.toList) s.out) hf hv hbits (out ++ [⟨.ok, emitted e⟩])
    refine ⟨⟨.ok, emitted e⟩ :: log, ?_, ?_⟩
    · rw [htxt, List.filterMap_cons, emittedSym_emitted]
      cases e <;> simp [State.withHost]
    · rw [List.map_cons, execSeq_cons_of_next hexec, List.append_cons out _ log]
      exact hlog

/-- DEC.RST, the bits and DEC.END, where the bits are decoded without a fault up to the end of a code. -/
theorem execSeq_stepwise {bs : Bits} {s t : State} (hf : s.fault = none) (hv : s.tst = .valid)
    (hbits : decodeBits bs (s.decoding s.root 0 []) = .done t ())
    (hend : ¬(2 ≤ t.nd.length ∧ t.walk ≠ t.root)) (out : List Response) :
    t.fault = none ∧ ∃ log, t.txt = log.filterMap emittedSym ∧
      execSeq (.decRst :: bs.map bitCommand ++ [.decEnd]) (s.withHost s.txt out) =
        .next (t.withHost s.txt (out ++ [⟨.ok, 0#64⟩] ++ log ++ [⟨.ok, 0#64⟩])) := by
  have hkeep := decodeBits_keeps (P := fun s => s.fault = none ∧ s.tst = .valid) (fun _ _ _ => id)
    (fun _ _ => id) (s := s.decoding s.root 0 []) ⟨hf, hv⟩ bs
  rw [hbits] at hkeep
  obtain ⟨htf, htv⟩ := hkeep
  obtain ⟨log, htxt, hlog⟩ :=
    execSeq_bitCommand (s := s.decoding s.root 0 []) hf hv hbits s.txt (out ++ [⟨.ok, 0#64⟩])
  have hrst : exec .decRst (s.withHost s.txt out) =
      .next ((s.decoding s.root 0 []).withHost s.txt (out ++ [⟨.ok, 0#64⟩])) :=
    (exec_decRst (s := s.withHost s.txt out) hf).trans (if_pos hv)
  have hlast := exec_decEnd (s := t.withHost s.txt (out ++ [⟨.ok, 0#64⟩] ++ log)) htf
  rw [if_pos (show (t.withHost s.txt _).tst = .valid from htv),
    checkEnd_eq_done (s := t.withHost s.txt _).mpr ⟨rfl, hend⟩] at hlast
  refine ⟨htf, log, htxt, execSeq_concat ?_ hlast⟩
  rw [execSeq_cons_of_next hrst]
  exact hlog

/-- Settles O50: the symbols that DEC.RUN appends to `TXT` are the ones DEC.BIT answers, bit by bit. -/
theorem stepwiseAgreesWithRun : Obligations.StepwiseAgreesWithRun := by
  intro s t k hf hexec ht
  obtain ⟨u, h⟩ := exists_decodeReady s
  rw [exec_decRun hf, h.decodeRun_eq] at hexec
  rcases Run.finish_next hexec with ⟨w, v, hrun, rfl⟩ | ⟨w, f, p, -, rfl⟩
  · obtain ⟨x, _, hbits, hrest⟩ := Run.bind_eq_done.mp hrun
    obtain ⟨y, _, hend, hdone⟩ := Run.bind_eq_done.mp hrest
    obtain ⟨rfl, hroot⟩ := checkEnd_eq_done.mp hend
    cases hdone
    obtain ⟨hyf, log, htxt, hseq⟩ := execSeq_stepwise (h.fromTable.fault_eq.trans hf) h.fromTable.valid hbits
      hroot (u.out ++ [⟨.ok, value u.nd.length⟩])
    have hsyms : log.filterMap emittedSym = y.txt := htxt.symm
    refine ⟨_, _, exec_htBld_of_done hf h.built, hseq, hyf, ?_⟩
    simpa [State.withHost, List.filterMap_cons, emittedSym] using hsyms
  · simp at ht

/-! ### The text of ENC.RUN (R154 (a)) -/

/-- Everything an ENC.RUN without a fault leaves: the table of the text, and its codes in the slot (R143). -/
theorem exec_encRun_eq_next {s t : State} {k : Slot} (hf : s.fault = none) (hexec : exec (.encRun k) s = .next t)
    (ht : t.fault = none) : ∃ cb, Tallied s.txt t.ft ∧ tableCodes t.ft = some cb ∧
      t.bits k = textCodes t.ft cb s.txt := by
  rw [exec_encRun hf] at hexec
  rcases Run.finish_next hexec with ⟨w, v, hrun, rfl⟩ | ⟨w, f, p, -, rfl⟩
  · obtain ⟨u, _, hcount, -⟩ := Run.bind_eq_done.mp hrun
    obtain ⟨r, cb, h⟩ := exists_encodeReady hcount
    rcases le_or_gt (textCodes u.ft cb s.txt).length s.bsCap with hfit | hover
    · cases hrun.symm.trans (h.encodeRun_done k hfit)
      have hft : ((u.dropTree.setCodebook cb).loadSlot k (textCodes u.ft cb s.txt)).ft = u.ft := by cases k <;> rfl
      rw [State.respond_ft, hft]
      exact ⟨cb, countText_tallied hcount, h.table, by rw [State.bits_respond, State.bits_loadSlot]⟩
    · cases hrun.symm.trans (h.encodeRun_raised k hover)
  · simp at ht

/-- No command changes a parameter (R43). -/
theorem exec_params {i : Instr} {s t : State} (h : exec i s = .next t) : t.params = s.params := by
  obtain ⟨hparams, -⟩ : Kept s t := exec_keeps (kept_endStable s) (kept_refl s) (powerOn_kept s)
    (fun hw => pseudocode_kept i hw s) h
  exact hparams

/-- Settles O51: every character of the text is in the table, and its code emits it. -/
theorem encodeDecodeRoundTrip : Obligations.EncodeDecodeRoundTrip := by
  intro s t k hf hexec ht hcap
  obtain ⟨cb, htally, hcb, hbits⟩ := exec_encRun_eq_next hf hexec ht
  obtain ⟨u, h⟩ := exists_decodeReady t
  have htxtCap : t.txtCap = s.txtCap := congrArg (·.2.2.2.1) (exec_params hexec)
  have hemits : ∀ c ∈ s.txt, u.Emits (codeOf t.ft cb c) c := by
    intro c hc
    rw [← h.fromTable.ft_eq]
    exact (h.treeCodes hcb).emits_codeOf h.fromTable.complete (h.fromTable.ft_eq ▸ htally.mem c hc)
  exact ⟨_, h.exec_of_codes (sym := id) ht hemits hbits (htxtCap ▸ hcap), ht, List.map_id _⟩

end Sys2Proof.Machine

/-! ## UTF-8 (45_container.md R162) -/

namespace Sys2Proof.Machine

/-! ### A byte of a longer form: a tag above, payload bits below -/

section

variable {m k : Nat} (x : BitVec m) (hm : m ≤ 8) {tag : Byte} (htag : tag.toNat = 2 ^ m * k)
include hm htag

/-- The tag and the payload do not overlap, so joining them adds them. -/
theorem tagged_toNat : (tag ||| x.setWidth 8).toNat = tag.toNat + x.toNat := by
  have hlt : x.toNat < 2 ^ 8 := x.isLt.trans_le (Nat.pow_le_pow_right (by decide) hm)
  rw [BitVec.toNat_or, BitVec.toNat_setWidth, Nat.mod_eq_of_lt hlt, htag, ← Nat.two_pow_add_eq_or_of_lt x.isLt]

theorem tagged_payload : (tag ||| x.setWidth 8).extractLsb' 0 m = x := by
  apply BitVec.eq_of_toNat_eq
  rw [BitVec.extractLsb'_toNat, tagged_toNat x hm htag, htag, Nat.shiftRight_zero, Nat.mul_add_mod,
    Nat.mod_eq_of_lt x.isLt]

end

theorem extractLsb'_toNat_eq {w : Nat} (x : BitVec w) (lo m : Nat) :
    (x.extractLsb' lo m).toNat = x.toNat / 2 ^ lo % 2 ^ m := by
  rw [BitVec.extractLsb'_toNat, Nat.shiftRight_eq_div_pow]

theorem contByte_toNat (c : Symbol) (lo : Nat) : (contByte c lo).toNat = 0x80 + c.toNat / 2 ^ lo % 2 ^ 6 := by
  rw [contByte, tagged_toNat (k := 2) _ (by decide) rfl, extractLsb'_toNat_eq]
  rfl

theorem contByte_payload (c : Symbol) (lo : Nat) : (contByte c lo).extractLsb' 0 6 = c.extractLsb' lo 6 :=
  tagged_payload (k := 2) _ (by decide) rfl

/-- The lead byte of a form that holds the whole symbol. -/
theorem leadByte_toNat {c : Symbol} {lo m k : Nat} {tag : Byte} (hm : m ≤ 8) (htag : tag.toNat = 2 ^ m * k)
    (hc : c.toNat < 2 ^ (lo + m)) :
    (tag ||| (c.extractLsb' lo m).setWidth 8).toNat = tag.toNat + c.toNat / 2 ^ lo := by
  rw [tagged_toNat _ hm htag, extractLsb'_toNat_eq,
    Nat.mod_eq_of_lt (Nat.div_lt_of_lt_mul (pow_add 2 lo m ▸ hc))]

/-! ### The four ranges (R162) -/

variable {c : Symbol}

theorem utf8_of_one (h : c.toNat ≤ 0x7F) : utf8 c = [c.extractLsb' 0 8] := if_pos h

theorem utf8_of_two (h1 : 0x80 ≤ c.toNat) (h2 : c.toNat ≤ 0x7FF) :
    utf8 c = [0xC0#8 ||| (c.extractLsb' 6 5).setWidth 8, contByte c 0] := by
  rw [utf8, if_neg (by omega), if_pos h2]

theorem utf8_of_three (h2 : 0x800 ≤ c.toNat) (h3 : c.toNat ≤ 0xFFFF) :
    utf8 c = [0xE0#8 ||| (c.extractLsb' 12 4).setWidth 8, contByte c 6, contByte c 0] := by
  rw [utf8, if_neg (by omega), if_neg (by omega), if_pos h3]

theorem utf8_of_four (h3 : 0x10000 ≤ c.toNat) :
    utf8 c = [0xF0#8 ||| (c.extractLsb' 18 3).setWidth 8, contByte c 12, contByte c 6, contByte c 0] := by
  rw [utf8, if_neg (by omega), if_neg (by omega), if_neg (by omega)]

/-- The range a symbol lies in. -/
theorem utf8_ranges (c : Symbol) : c.toNat ≤ 0x7F ∨ (0x80 ≤ c.toNat ∧ c.toNat ≤ 0x7FF) ∨
    (0x800 ≤ c.toNat ∧ c.toNat ≤ 0xFFFF) ∨ 0x10000 ≤ c.toNat := by omega

theorem utf8_length_bounds (c : Symbol) : 1 ≤ (utf8 c).length ∧ (utf8 c).length ≤ 4 := by
  rcases utf8_ranges c with h | ⟨h1, h2⟩ | ⟨h2, h3⟩ | h3
  · simp [utf8_of_one h]
  · simp [utf8_of_two h1 h2]
  · simp [utf8_of_three h2 h3]
  · simp [utf8_of_four h3]

/-! ### The decoder (R162) -/

/-- The low bits of a symbol are the symbol when it has no others. -/
theorem setWidth_extractLsb'_of_lt {m : Nat} (h : c.toNat < 2 ^ m) : (c.extractLsb' 0 m).setWidth 21 = c := by
  apply BitVec.eq_of_toNat_eq
  rw [BitVec.toNat_setWidth, extractLsb'_toNat_eq, pow_zero, Nat.div_one, Nat.mod_eq_of_lt h, Nat.mod_eq_of_lt c.isLt]

/-- The payload bits of the bytes of `utf8 c`, joined, are the bits of `c`. -/
theorem utf8Candidate_utf8 (c : Symbol) : utf8Candidate (utf8 c) = some c := by
  have join : ∀ {lo m n : Nat}, c.extractLsb' (lo + m) n ++ c.extractLsb' lo m = c.extractLsb' lo (n + m) :=
    BitVec.extractLsb'_append_extractLsb'_eq_extractLsb' rfl
  rcases utf8_ranges c with h | ⟨h1, h2⟩ | ⟨h2, h3⟩ | h3
  · rw [utf8_of_one h, utf8Candidate, setWidth_extractLsb'_of_lt (by omega)]
  · rw [utf8_of_two h1 h2, utf8Candidate, tagged_payload (k := 6) _ (by decide) rfl, contByte_payload,
      join (lo := 0) (m := 6), setWidth_extractLsb'_of_lt (by omega)]
  · rw [utf8_of_three h2 h3, utf8Candidate, tagged_payload (k := 14) _ (by decide) rfl, contByte_payload,
      contByte_payload, join (lo := 6) (m := 6), join (lo := 0) (m := 6), setWidth_extractLsb'_of_lt (by omega)]
  · rw [utf8_of_four h3, utf8Candidate, tagged_payload (k := 30) _ (by decide) rfl, contByte_payload,
      contByte_payload, contByte_payload, join (lo := 12) (m := 6), join (lo := 6) (m := 6),
      join (lo := 0) (m := 6), setWidth_extractLsb'_of_lt c.isLt]

theorem utf8Decode_utf8 (h : isScalar c = true) : utf8Decode (utf8 c) = some c := by
  rw [utf8Decode, utf8Candidate_utf8]
  simp [h]

/-- Settles O53, range by range, and by the payload bits that the decoder joins. -/
theorem utf8Definition : Obligations.Utf8Definition := by
  refine ⟨?_, fun U c => ⟨utf8Decode_eq_some, fun ⟨hc, hU⟩ => hU ▸ utf8Decode_utf8 hc⟩⟩
  rintro c _ rfl
  refine ⟨fun h => ?_, fun h1 h2 => ?_, fun h2 h3 => ?_, fun h3 h4 => ?_⟩
  · rw [utf8_of_one h, List.map_singleton, extractLsb'_toNat_eq, pow_zero, Nat.div_one,
      Nat.mod_eq_of_lt (by omega)]
  · rw [utf8_of_two h1 h2, List.map_cons, leadByte_toNat (k := 6) (by decide) rfl (by omega), List.map_singleton,
      contByte_toNat, pow_zero, Nat.div_one]
    rfl
  · rw [utf8_of_three h2 h3, List.map_cons, leadByte_toNat (k := 14) (by decide) rfl (by omega), List.map_cons,
      List.map_singleton, contByte_toNat, contByte_toNat, pow_zero, Nat.div_one]
    rfl
  · rw [utf8_of_four h3, List.map_cons, leadByte_toNat (k := 30) (by decide) rfl (by omega), List.map_cons,
      List.map_cons, List.map_singleton, contByte_toNat, contByte_toNat, contByte_toNat, pow_zero, Nat.div_one]
    rfl

end Sys2Proof.Machine

/-! ## The Compressed File and CZ.WR (45_container.md R160, R163, R165) -/

namespace Sys2Proof.Machine

/-! ### The fields of an image (R53, R160) -/

theorem beBytes_succ (n v : Nat) : beBytes (n + 1) v = BitVec.ofNat 8 (v / 256 ^ n) :: beBytes n v := by
  have hpow : 2 ^ (8 * n) = 256 ^ n := Nat.pow_mul 2 8 n
  rw [beBytes, List.range_succ_eq_map, List.map_cons, List.map_map, Nat.add_sub_cancel, Nat.sub_zero,
    Nat.shiftRight_eq_div_pow, hpow, beBytes]
  refine congrArg _ (List.map_congr_left fun k _ => ?_)
  rw [Function.comp_apply, Nat.succ_eq_add_one, Nat.sub_add_eq, Nat.sub_right_comm]

theorem beBytes_two (v : Nat) : beBytes 2 v = be16 v := by
  simp [beBytes, be16, List.range_succ, Nat.shiftRight_eq_div_pow]

theorem beBytes_four (v : Nat) : beBytes 4 v = be32 v := by
  simp [beBytes, be32, List.range_succ, Nat.shiftRight_eq_div_pow]

@[simp] theorem be16_length (v : Nat) : (be16 v).length = 2 := rfl

@[simp] theorem be32_length (v : Nat) : (be32 v).length = 4 := rfl

theorem entryBytes_eq (e : Entry) :
    entryBytes e = be16 (utf8 e.sym).length ++ (utf8 e.sym ++ be32 e.cnt.toNat) := by
  rw [entryBytes, beBytes_two, beBytes_four, List.append_assoc]

theorem zzEntries_eq_flatMap (ft : List Entry) : zzEntries ft = ft.flatMap entryBytes :=
  List.flatMap_congr fun e _ => by rw [entryBytes_eq, List.append_assoc]

theorem fileImage_eq (ft : List Entry) (bits : Bits) : fileImage ft bits = zzFile ft bits := by
  rw [fileImage, beBytes_two, beBytes_four, ← zzEntries_eq_flatMap, zzFile]

/-- The size that CZ.WR computes entry by entry is the one of R165. -/
theorem fileSize_eq (ft : List Entry) (bits : Bits) : fileSize ft bits =
    6 + 6 * ft.length + (ft.map fun e => (utf8 e.sym).length).sum + ceil8 bits.length := by
  have hsum : (ft.map fun e => 2 + (utf8 e.sym).length + 4).sum =
      6 * ft.length + (ft.map fun e => (utf8 e.sym).length).sum := by
    simp only [List.sum_map_add, List.map_const', List.sum_replicate, smul_eq_mul]
    omega
  rw [fileSize, hsum]
  omega

theorem exec_czWr {s : State} (hf : s.fault = none) (k : Slot) : exec (.czWr k) s =
    if fileSize s.ft (s.bits k) > s.bufCap then faulted s .capacityExceeded none
    else answered { s with buf := zzFile s.ft (s.bits k) } (value (fileSize s.ft (s.bits k))) := by
  rw [← fileImage_eq]
  exact (exec_of_legal (i := .czWr k) hf nofun rfl).trans (Run.finish_ite_raised_done ..)

/-- Settles O52: the image and its size, as CZ.WR computes them, are those of the statement. -/
theorem writeFileEffect : Obligations.WriteFileEffect := by
  refine ⟨fun _ => rfl, fun s k size hf hsize => ?_⟩
  obtain rfl : size = fileSize s.ft (s.bits k) := hsize.trans (fileSize_eq ..).symm
  rw [exec_czWr hf]
  refine ⟨fun h => if_pos h, fun h => if_neg (not_lt.mpr h), ?_⟩
  rw [← fileImage_eq, fileImage_length]

/-- Everything a CZ.WR without a fault leaves (R163). -/
theorem exec_czWr_eq_next {s t : State} {k : Slot} (h : exec (.czWr k) s = .next t) (ht : t.fault = none) :
    s.fault = none ∧ ∃ out, t = { s with buf := zzFile s.ft (s.bits k), out := out } := by
  by_cases hf : s.fault = none
  · rw [exec_czWr hf] at h
    split_ifs at h
    · cases h
      cases ht
    · cases h
      exact ⟨hf, _, rfl⟩
  · obtain ⟨st, v, hrefused⟩ := exec_of_fault (i := .czWr k) hf nofun
    cases hrefused.symm.trans h
    exact absurd ht hf

end Sys2Proof.Machine
/-! ## CZ.RD (45_container.md R164, 60_exceptions.md R194) -/

namespace Sys2Proof.Machine

/-! ### Reading a field (R53) -/

theorem foldl_beBytes (n v acc : Nat) :
    (beBytes n v).foldl (fun acc b => acc * 256 + b.toNat) acc = acc * 256 ^ n + v % 256 ^ n := by
  induction n generalizing acc with
  | zero => simp [beBytes, Nat.mod_one]
  | succ n ih =>
    rw [beBytes_succ, List.foldl_cons, ih, BitVec.toNat_ofNat, Nat.mod_pow_succ (b := 256), pow_succ 256,
      show 2 ^ 8 = 256 from rfl]
    ring

/-- A field reads as the number stored in it. -/
theorem memRead_beBytes {m : Memory} {a n v : Nat} {rest : List Byte} (h : m.drop a = beBytes n v ++ rest)
    (hv : v < 256 ^ n) : memRead m a n = v := by
  rw [memRead, h, List.take_left' (beBytes_length n v), foldl_beBytes, Nat.zero_mul, Nat.zero_add,
    Nat.mod_eq_of_lt hv]

theorem foldl_bigEndian_eq_zero {l : List Byte} {acc : Nat}
    (h : l.foldl (fun acc b => acc * 256 + b.toNat) acc = 0) : acc = 0 ∧ l = List.replicate l.length 0#8 := by
  induction l generalizing acc with
  | nil => exact ⟨h, rfl⟩
  | cons b l ih =>
    obtain ⟨hhead, hl⟩ := ih h
    have hsum : acc * 256 + b.toNat = 0 := hhead
    have hb : b = 0#8 := BitVec.eq_of_toNat_eq (by rw [BitVec.toNat_ofNat]; omega)
    exact ⟨by omega, by rw [hb, List.length_cons, List.replicate_succ, ← hl]⟩

/-- A four-byte field that is there reads as 0 exactly when its bytes are those of 0. -/
theorem memRead_four_eq_zero_iff {m : Memory} {a : Nat} (h : 4 ≤ (m.drop a).length) :
    memRead m a 4 = 0 ↔ (m.drop a).take 4 = be32 0 := by
  refine ⟨fun h0 => ?_, fun hz => ?_⟩
  · obtain ⟨-, hzeros⟩ := foldl_bigEndian_eq_zero h0
    rw [hzeros, List.length_take_of_le h]
    rfl
  · rw [memRead, hz]
    rfl

/-- What lies behind a field of the buffer. -/
theorem drop_behind {m A B : List Byte} {a n : Nat} (h : m.drop a = A ++ B) (hn : A.length = n) :
    m.drop (a + n) = B := by rw [← List.drop_drop, h, List.drop_left' hn]

theorem need_of_lt {n p : Nat} {s : State} (h : (s.buf.drop p).length < n) :
    need n p s = .raised s .corruptStream (some p) := if_pos (List.length_drop ▸ h)

theorem need_of_le {n p : Nat} {s : State} (h : n ≤ (s.buf.drop p).length) : need n p s = .done s () :=
  if_neg (not_lt.mpr (List.length_drop ▸ h))

/-! ### One entry (R164) -/

section

variable {s : State} {p l : Nat} {body : List Byte} {sym : Symbol}

theorem readFileEntry_of_short (h : (s.buf.drop p).length < 2) :
    readFileEntry p s = .raised s .corruptStream (some p) := by
  rw [readFileEntry, need_of_lt h, Run.bind_raised]

variable (hbuf : s.buf.drop p = be16 l ++ body) (hl : l < 2 ^ 16)
include hbuf hl

/-- A two-byte field that is there is read. -/
theorem need_memRead_of_be16 : need 2 p s = .done s () ∧ memRead s.buf p 2 = l :=
  ⟨need_of_le (by simp [hbuf]), memRead_beBytes (beBytes_two l ▸ hbuf) hl⟩

theorem readFileEntry_of_illegal_length (h : l < 1 ∨ l > 4) :
    readFileEntry p s = .raised s .corruptStream (some p) := by
  obtain ⟨hneed, hread⟩ := need_memRead_of_be16 hbuf hl
  rw [readFileEntry, hneed, Run.bind_done, hread]
  exact if_pos h

variable (h1 : 1 ≤ l) (h4 : l ≤ 4)
include h1 h4

theorem readFileEntry_of_bad_symbol (h : body.length < l ∨ utf8Decode (body.take l) = none) :
    readFileEntry p s = .raised s .corruptStream (some (p + 2)) := by
  obtain ⟨hneed, hread⟩ := need_memRead_of_be16 hbuf hl
  have hrest : s.buf.drop (p + 2) = body := drop_behind hbuf rfl
  have hlegal : ¬(l < 1 ∨ l > 4) := by omega
  rw [readFileEntry, hneed, Run.bind_done, hread]
  simp only [if_neg hlegal]
  by_cases hshort : body.length < l
  · rw [need_of_lt (hrest ▸ hshort), Run.bind_raised]
  · rw [need_of_le (hrest ▸ not_lt.mp hshort), Run.bind_done, hrest, h.resolve_left hshort]

variable (hlen : l ≤ body.length) (hsym : utf8Decode (body.take l) = some sym)
include hlen hsym

/-- After a good symbol the count is read. -/
theorem readFileEntry_of_symbol :
    readFileEntry p s = (need 4 (p + 2 + l) s).bind fun s _ =>
      if memRead s.buf (p + 2 + l) 4 = 0 then .raised s .corruptStream (some (p + 2 + l))
      else (putEntry sym (BitVec.ofNat 32 (memRead s.buf (p + 2 + l) 4)) s).bind fun s _ =>
        .done s (p + 2 + l + 4) := by
  obtain ⟨hneed, hread⟩ := need_memRead_of_be16 hbuf hl
  have hrest : s.buf.drop (p + 2) = body := drop_behind hbuf rfl
  have hlegal : ¬(l < 1 ∨ l > 4) := by omega
  rw [readFileEntry, hneed, Run.bind_done, hread]
  simp only [if_neg hlegal]
  rw [need_of_le (hrest ▸ hlen), Run.bind_done, hrest, hsym]

theorem readFileEntry_of_bad_count (h : body.length < l + 4 ∨ (body.drop l).take 4 = be32 0) :
    readFileEntry p s = .raised s .corruptStream (some (p + 2 + l)) := by
  have hrest : s.buf.drop (p + 2 + l) = body.drop l := by
    rw [← List.drop_drop, drop_behind hbuf (be16_length l)]
  rw [readFileEntry_of_symbol hbuf hl h1 h4 hlen hsym]
  by_cases hshort : body.length < l + 4
  · rw [need_of_lt (by rw [hrest, List.length_drop]; omega), Run.bind_raised]
  · have hfour : 4 ≤ (s.buf.drop (p + 2 + l)).length := by rw [hrest, List.length_drop]; omega
    rw [need_of_le hfour, Run.bind_done,
      if_pos ((memRead_four_eq_zero_iff hfour).mpr (hrest ▸ h.resolve_left hshort))]

theorem readFileEntry_of_count (hfour : l + 4 ≤ body.length) (h : (body.drop l).take 4 ≠ be32 0) :
    readFileEntry p s = (putEntry sym (BitVec.ofNat 32 (memRead s.buf (p + 2 + l) 4)) s).bind fun s _ =>
      .done s (p + 2 + l + 4) := by
  have hrest : s.buf.drop (p + 2 + l) = body.drop l := by
    rw [← List.drop_drop, drop_behind hbuf (be16_length l)]
  have hfour : 4 ≤ (s.buf.drop (p + 2 + l)).length := by rw [hrest, List.length_drop]; omega
  rw [readFileEntry_of_symbol hbuf hl h1 h4 hlen hsym, need_of_le hfour, Run.bind_done,
    if_neg ((memRead_four_eq_zero_iff hfour).not.mpr (hrest ▸ h))]

end

/-- The entries that an image can hold. -/
abbrev Entry.Legal (e : Entry) : Prop := isScalar e.sym = true ∧ e.cnt ≠ 0#32

theorem be32_ne_zero {v : Word32} (h : v ≠ 0#32) : be32 v.toNat ≠ be32 0 := by
  intro h0
  have hread : memRead (be32 v.toNat) 0 4 = v.toNat :=
    memRead_beBytes (rest := []) (by simp [beBytes_four]) v.isLt
  exact h (BitVec.eq_of_toNat_eq (hread.symm.trans (h0 ▸ rfl)))

/-- A good entry is appended, and the offset moves behind it. -/
theorem readFileEntry_of_entry {s : State} {p : Nat} {e : Entry} {rest : List Byte}
    (hbuf : s.buf.drop p = entryBytes e ++ rest) (he : e.Legal) (hcap : s.ft.length ≠ s.ftCap) :
    readFileEntry p s = .done (s.setTable (s.ft ++ [e])) (p + (entryBytes e).length) := by
  obtain ⟨hsym, hcnt⟩ := he
  obtain ⟨h1, h4⟩ := utf8_length_bounds e.sym
  rw [entryBytes_eq, List.append_assoc, List.append_assoc] at hbuf
  have hcount := drop_behind (drop_behind hbuf rfl) rfl
  have hread : memRead s.buf (p + 2 + (utf8 e.sym).length) 4 = e.cnt.toNat :=
    memRead_beBytes (beBytes_four _ ▸ hcount) e.cnt.isLt
  have hdecode : utf8Decode ((utf8 e.sym ++ (be32 e.cnt.toNat ++ rest)).take (utf8 e.sym).length) = some e.sym := by
    rw [List.take_left' rfl, utf8Decode_utf8 hsym]
  have hne : ((utf8 e.sym ++ (be32 e.cnt.toNat ++ rest)).drop (utf8 e.sym).length).take 4 ≠ be32 0 := by
    rw [List.drop_left' rfl, List.take_left' (be32_length _)]
    exact be32_ne_zero hcnt
  rw [readFileEntry_of_count hbuf (by omega) h1 h4 (by simp) hdecode (by simp) hne, hread, BitVec.ofNat_toNat,
    BitVec.setWidth_eq, putEntry, if_neg hcap, Run.bind_done, entryBytes_eq]
  simp [Nat.add_assoc]

/-- After the good entries of an image come the others. -/
theorem readFileEntries_of_entries {s : State} {p : Nat} {read ft : List Entry} {rest : List Byte}
    (hbuf : s.buf.drop p = zzEntries ft ++ rest) (hft : ∀ e ∈ ft, e.Legal)
    (hcap : read.length + ft.length ≤ s.ftCap) (m : Nat) :
    readFileEntries (ft.length + m) p (s.newTable read) =
      readFileEntries m (p + (zzEntries ft).length) (s.newTable (read ++ ft)) := by
  induction ft generalizing p read with
  | nil => simp [zzEntries]
  | cons e ft ih =>
    rw [zzEntries_eq_flatMap, List.flatMap_cons, ← zzEntries_eq_flatMap, List.append_assoc] at hbuf
    rw [List.length_cons] at hcap
    have hentry : readFileEntry p (s.newTable read) =
        .done (s.newTable (read ++ [e])) (p + (entryBytes e).length) :=
      readFileEntry_of_entry (s := s.newTable read) hbuf (hft e List.mem_cons_self)
        (show read.length ≠ s.ftCap by omega)
    rw [List.length_cons, Nat.add_right_comm, readFileEntries, hentry, Run.bind_done,
      ih (drop_behind hbuf rfl) (fun x hx => hft x (List.mem_cons_of_mem e hx)) (by simp; omega)]
    simp [zzEntries_eq_flatMap, Nat.add_assoc]

/-! ### The stream (R164) -/

/-- The end of the pseudocode of R164, from the bit length on. -/
def readStream (k : Slot) (p : Nat) (s : State) : Run Word :=
  (need 4 p s).bind fun s _ =>
  (fromBytes k (s.buf.drop (p + 4)) (memRead s.buf p 4) (some (p + 4)) s).bind fun s _ =>
  .done s (num (s.ft.length * 2 ^ 32 + s.len k))

theorem readFile_eq (k : Slot) (s : State) : readFile k s = (need 2 0 s).bind fun s _ =>
    (readFileEntries (memRead s.buf 0 2) 2 (s.newTable [])).bind fun s p => readStream k p s := rfl

theorem finish_readStream_of_short {s : State} {k : Slot} {p : Nat} (h : (s.buf.drop p).length < 4) :
    (readStream k p s).finish = faulted s .corruptStream (some p) := by
  rw [readStream, need_of_lt h, Run.bind_raised]
  rfl

theorem finish_readStream {s : State} {k : Slot} {p L : Nat} {payload : List Byte}
    (hbuf : s.buf.drop p = be32 L ++ payload) (hL : L < 2 ^ 32) :
    (readStream k p s).finish =
      if payload.length ≠ ceil8 L then faulted s .corruptStream (some (p + 4))
      else if L > s.bsCap then faulted s .capacityExceeded none
      else answered (s.loadSlot k (unpack payload L)) (value (s.ft.length * 2 ^ 32 + L)) := by
  have hread : memRead s.buf p 4 = L := memRead_beBytes (beBytes_four L ▸ hbuf) hL
  rw [readStream, need_of_le (by simp [hbuf]), Run.bind_done, hread,
    drop_behind hbuf (be32_length L)]
  rcases fromBytes_cases k payload L (some (p + 4)) s with ⟨hB, e⟩ | ⟨hB, hn, e⟩ | ⟨hB, hn, e⟩ <;> rw [e]
  · rw [if_pos hB]
    rfl
  · rw [if_neg (not_not.mpr hB), if_pos hn]
    rfl
  · rw [if_neg (not_not.mpr hB), if_neg (not_lt.mpr hn), Run.bind_done, State.loadSlot_eq, State.len_eq,
      State.bits_setCur, State.bits_setBits, if_pos rfl, unpack_length, State.setCur_ft, State.setBits_ft]
    rfl

/-! ### The answers of CZ.RD (R164) -/

theorem exec_czRd {s : State} {k : Slot} (hf : s.fault = none) : exec (.czRd k) s = (readFile k s).finish :=
  exec_of_legal (i := .czRd k) hf nofun rfl

theorem exec_czRd_of_short {s : State} {k : Slot} (hf : s.fault = none) (h : s.buf.length < 2) :
    exec (.czRd k) s = faulted s .corruptStream (some 0) := by
  rw [exec_czRd hf, readFile_eq, need_of_lt h, Run.bind_raised]
  rfl

/-- A block whose buffer begins with the count `n` and the bytes of the good entries `ft`. -/
structure Reading (s : State) (n : Nat) (ft : List Entry) (tail : List Byte) : Prop where
  /-- R200 -/
  ready : s.fault = none
  /-- R160 -/
  image : s.buf = be16 n ++ zzEntries ft ++ tail
  /-- R164 -/
  legal : ∀ e ∈ ft, e.Legal
  /-- the count fits its two bytes -/
  count : n ≤ 65535
  /-- R92 -/
  room : ft.length ≤ s.ftCap

namespace Reading

variable {s : State} {k : Slot} {n : Nat} {ft : List Entry} {tail : List Byte} (h : Reading s n ft tail)
include h

/-- The part of the image behind the entries. -/
theorem drop_eq : (s.newTable ft).buf.drop (2 + (zzEntries ft).length) = tail := by
  show s.buf.drop _ = tail
  rw [h.image, List.drop_left' (by simp)]

theorem exec_eq {m : Nat} (hm : n = ft.length + m) : exec (.czRd k) s =
    ((readFileEntries m (2 + (zzEntries ft).length) (s.newTable ft)).bind fun s p => readStream k p s).finish := by
  have himage : s.buf.drop 0 = be16 n ++ (zzEntries ft ++ tail) := by
    rw [List.drop_zero, h.image, List.append_assoc]
  have hcount := h.count
  obtain ⟨hneed, hread⟩ := need_memRead_of_be16 himage (by omega)
  rw [exec_czRd h.ready, readFile_eq, hneed, Run.bind_done, hread, hm,
    readFileEntries_of_entries (p := 2) (drop_behind himage rfl) h.legal (by simpa using h.room), List.nil_append]

/-- A fault in the next entry ends the command. -/
theorem exec_of_entry_raised (hlt : ft.length < n) {f : FaultKind} {pos : Option Nat}
    (hr : readFileEntry (2 + (zzEntries ft).length) (s.newTable ft) = .raised (s.newTable ft) f pos) :
    exec (.czRd k) s = faulted (s.newTable ft) f pos := by
  obtain ⟨m, rfl⟩ := Nat.exists_eq_add_of_lt hlt
  rw [h.exec_eq (m := m + 1) rfl, readFileEntries, hr, Run.bind_raised, Run.bind_raised]
  exact Run.finish_raised_eq_faulted ..

theorem exec_of_all_read (hn : ft.length = n) :
    exec (.czRd k) s = (readStream k (2 + (zzEntries ft).length) (s.newTable ft)).finish :=
  h.exec_eq (m := 0) hn.symm

theorem exec_of_short_bit_length (hn : ft.length = n) (ht : tail.length < 4) :
    exec (.czRd k) s = faulted (s.newTable ft) .corruptStream (some (2 + (zzEntries ft).length)) :=
  (h.exec_of_all_read hn).trans (finish_readStream_of_short (h.drop_eq ▸ ht))

theorem exec_of_stream (hn : ft.length = n) {L : Nat} {payload : List Byte} (ht : tail = be32 L ++ payload)
    (hL : L < 2 ^ 32) : exec (.czRd k) s =
      if payload.length ≠ ceil8 L then
        faulted (s.newTable ft) .corruptStream (some (2 + (zzEntries ft).length + 4))
      else if L > s.bsCap then faulted (s.newTable ft) .capacityExceeded none
      else answered ((s.newTable ft).loadSlot k (unpack payload L)) (value (ft.length * 2 ^ 32 + L)) :=
  (h.exec_of_all_read hn).trans (finish_readStream (h.drop_eq.trans ht) hL)

end Reading

/-- Settles O55: each defect is the fault of the field it is in. -/
theorem readFileFaults : Obligations.ReadFileFaults := by
  refine ⟨fun s k => exec_czRd_of_short, fun s k n p ft tail hf hbuf hft hn hcap hp => ?_⟩
  obtain rfl := hp
  have h : Reading s n ft tail := ⟨hf, hbuf, hft, hn, hcap⟩
  refine ⟨fun hlt => ⟨fun ht => ?_, fun l body ht hl => ⟨fun hbad => ?_, fun h1 h4 hbad => ?_,
    fun sym h1 h4 hlen hsym => ⟨fun hbad => ?_, fun hfour hcnt hfull => ?_⟩⟩⟩, fun heq => ⟨?_, ?_⟩⟩
  · exact h.exec_of_entry_raised hlt (readFileEntry_of_short (h.drop_eq ▸ ht))
  · exact h.exec_of_entry_raised hlt (readFileEntry_of_illegal_length (h.drop_eq.trans ht) hl hbad)
  · exact h.exec_of_entry_raised hlt (readFileEntry_of_bad_symbol (h.drop_eq.trans ht) hl h1 h4 hbad)
  · exact h.exec_of_entry_raised hlt
      (readFileEntry_of_bad_count (h.drop_eq.trans ht) hl h1 h4 hlen hsym hbad)
  · refine h.exec_of_entry_raised hlt ?_
    rw [readFileEntry_of_count (h.drop_eq.trans ht) hl h1 h4 hlen hsym hfour hcnt, putEntry, if_pos hfull,
      Run.bind_raised]
  · exact h.exec_of_short_bit_length heq
  · exact fun L payload ht hL => heq ▸ h.exec_of_stream heq ht hL

/-- Settles O54: no field of the image is defective. -/
theorem readFileEffect : Obligations.ReadFileEffect := by
  refine ⟨fun _ => rfl, fun s k ft L payload hf hbuf hft hn hcap hL hLcap hpay => ?_⟩
  have h : Reading s ft.length ft (be32 L ++ payload) :=
    ⟨hf, by rw [hbuf, List.append_assoc _ (be32 L)], hft, hn, hcap⟩
  rw [h.exec_of_stream rfl rfl hL, ceil8, if_neg (not_not.mpr hpay), if_neg (not_lt.mpr hLcap)]

end Sys2Proof.Machine
/-! ## Files from block to block (45_container.md R166, R167) -/

namespace Sys2Proof.Machine

/-! ### The image of a state between commands (R8, R38, R39) -/

section

variable {s v : State} (hi : s.Inv)
include hi

theorem State.Inv.legal : ∀ e ∈ s.ft, e.Legal := fun e he => (hi.table.2 e he).symm

theorem State.Inv.ft_length_le : s.ft.length ≤ 65535 := hi.table.1.trans hi.caps.1.2

theorem State.Inv.bits_length_lt (k : Slot) : (s.bits k).length < 2 ^ 32 :=
  Nat.lt_succ_of_le ((hi.bits_length_le k).trans hi.caps.2.1.2)

variable (hf : v.fault = none) {k : Slot}
include hf

/-- CZ.RD in any block that holds the image and has room for it: no field is defective. -/
theorem State.Inv.exec_czRd_of_zzFile (hbuf : v.buf = zzFile s.ft (s.bits k)) (hcap : s.ft.length ≤ v.ftCap)
    (hbits : (s.bits k).length ≤ v.bsCap) (j : Slot) : exec (.czRd j) v =
      answered ((v.newTable s.ft).loadSlot j (s.bits k))
        (value (s.ft.length * 2 ^ 32 + (s.bits k).length)) := by
  obtain ⟨-, hread⟩ := readFileEffect
  rw [hread v j s.ft (s.bits k).length (pack (s.bits k)) hf hbuf hi.legal hi.ft_length_le hcap
    (hi.bits_length_lt k) hbits (pack_length _), unpack_pack]

end

/-- Settles O56: CZ.WR leaves the image, which CZ.RD reads. -/
theorem fileRoundTrip : Obligations.FileRoundTrip := by
  intro s t v k j hi hexec ht hf hbuf hcap hbits
  obtain ⟨-, out, rfl⟩ := exec_czWr_eq_next hexec ht
  exact hi.exec_czRd_of_zzFile hf hbuf hcap hbits j

/-! ### A truncated image (R166 (b)) -/

/-- A position within blocks laid out one after another lies in one of them. -/
theorem exists_block_of_lt {α β : Type} (f : α → List β) {l : List α} {m : Nat}
    (h : m < (l.flatMap f).length) :
    ∃ before x after j, l = before ++ x :: after ∧ j < (f x).length ∧ m = (before.flatMap f).length + j := by
  induction l generalizing m with
  | nil => simp at h
  | cons a l ih =>
    rcases lt_or_ge m (f a).length with hlt | hge
    · exact ⟨[], a, l, m, rfl, hlt, by simp⟩
    · obtain ⟨before, x, after, j, rfl, hj, hm⟩ := ih (m := m - (f a).length) (by
        rw [List.flatMap_cons, List.length_append] at h
        omega)
      exact ⟨a :: before, x, after, j, rfl, hj, by rw [List.flatMap_cons, List.length_append]; omega⟩

namespace Reading

variable {v : State} {n j : Nat} {ft : List Entry} {k : Slot}

/-- An entry that is cut off is a short length, a short symbol or a short count. -/
theorem exec_of_cut_entry {e : Entry} (h : Reading v n ft ((entryBytes e).take j)) (hlt : ft.length < n)
    (he : isScalar e.sym = true) (hj : j < (entryBytes e).length) :
    ∃ q, exec (.czRd k) v = faulted (v.newTable ft) .corruptStream (some q) ∧
      q ≤ 2 + (zzEntries ft).length + j := by
  obtain ⟨h1, h4⟩ := utf8_length_bounds e.sym
  have hlen : (entryBytes e).length = 2 + ((utf8 e.sym).length + 4) := by simp [entryBytes_eq]
  rcases lt_or_ge j 2 with hj2 | hj2
  · exact ⟨_, h.exec_of_entry_raised hlt (readFileEntry_of_short (by rw [h.drop_eq, List.length_take]; omega)),
      by omega⟩
  have hbody := h.drop_eq
  rw [entryBytes_eq, List.take_append, List.take_of_length_le hj2, be16_length] at hbody
  have hcut : ((utf8 e.sym ++ be32 e.cnt.toNat).take (j - 2)).length = j - 2 := by
    rw [List.length_take, List.length_append, be32_length]
    omega
  rcases lt_or_ge (j - 2) (utf8 e.sym).length with hshort | hsym
  · exact ⟨_, h.exec_of_entry_raised hlt
      (readFileEntry_of_bad_symbol hbody (by omega) h1 h4 (.inl (hcut.trans_lt hshort))), by omega⟩
  · have hdecode : utf8Decode (((utf8 e.sym ++ be32 e.cnt.toNat).take (j - 2)).take (utf8 e.sym).length) =
        some e.sym := by
      rw [List.take_take, min_eq_left hsym, List.take_left' rfl, utf8Decode_utf8 he]
    exact ⟨_, h.exec_of_entry_raised hlt (readFileEntry_of_bad_count hbody (by omega) h1 h4 (by omega) hdecode
      (.inl (by omega))), by omega⟩

/-- A stream that is cut off is a short bit length or a payload that is too short. -/
theorem exec_of_cut_stream {bits : Bits} (h : Reading v n ft ((be32 bits.length ++ pack bits).take j))
    (hn : ft.length = n) (hL : bits.length < 2 ^ 32) (hj : j < 4 + ceil8 bits.length) :
    ∃ q, exec (.czRd k) v = faulted (v.newTable ft) .corruptStream (some q) ∧
      q ≤ 2 + (zzEntries ft).length + j := by
  rcases lt_or_ge j 4 with hj4 | hj4
  · exact ⟨_, h.exec_of_short_bit_length hn (by rw [List.length_take]; omega), by omega⟩
  · have htail : (be32 bits.length ++ pack bits).take j = be32 bits.length ++ (pack bits).take (j - 4) := by
      rw [List.take_append, List.take_of_length_le hj4, be32_length]
    have hpayload : ((pack bits).take (j - 4)).length ≠ ceil8 bits.length := by
      rw [List.length_take, pack_length]
      omega
    exact ⟨_, (h.exec_of_stream hn htail hL).trans (if_pos hpayload), by omega⟩

end Reading

/-- An image, cut in front of one of its entries. -/
theorem zzFile_split (before : List Entry) (e : Entry) (after : List Entry) (bits : Bits) :
    zzFile (before ++ e :: after) bits =
      (be16 (before ++ e :: after).length ++ zzEntries before) ++
        (entryBytes e ++ (zzEntries after ++ be32 bits.length ++ pack bits)) := by
  simp [zzFile, zzEntries_eq_flatMap]

theorem zzFile_length (ft : List Entry) (bits : Bits) :
    (zzFile ft bits).length = 2 + ((zzEntries ft).length + (4 + ceil8 bits.length)) := by
  simp [zzFile]

section

variable {s v : State} (hi : s.Inv) (hf : v.fault = none) (hcap : s.ft.length ≤ v.ftCap) {k j : Slot} {m : Nat}
include hi hf hcap

theorem State.Inv.exec_czRd_of_cut_entries (hm : m < (zzEntries s.ft).length)
    (hbuf : v.buf = (zzFile s.ft (s.bits k)).take (2 + m)) :
    ∃ ft q, exec (.czRd j) v = faulted (v.newTable ft) .corruptStream (some q) ∧ q ≤ 2 + m := by
  rw [zzEntries_eq_flatMap] at hm
  obtain ⟨before, e, after, i, hft, hie, rfl⟩ := exists_block_of_lt entryBytes hm
  rw [← zzEntries_eq_flatMap] at hbuf ⊢
  have hlegal : ∀ x ∈ before ++ e :: after, x.Legal := hft ▸ hi.legal
  have hn : s.ft.length = before.length + (after.length + 1) := by simp [hft]
  have hpos : 2 + ((zzEntries before).length + i) = (be16 s.ft.length ++ zzEntries before).length + i := by
    simp [Nat.add_assoc]
  have h : Reading v s.ft.length before ((entryBytes e).take i) := by
    refine ⟨hf, ?_, fun x hx => hlegal x (List.mem_append_left _ hx), hi.ft_length_le, by omega⟩
    rw [hbuf, hpos, hft, zzFile_split, List.take_length_add_append, List.take_append_of_le_length hie.le]
  obtain ⟨hsym, -⟩ := hlegal e (by simp)
  obtain ⟨q, hexec, hq⟩ := h.exec_of_cut_entry (k := j) (by omega) hsym hie
  exact ⟨before, q, hexec, by omega⟩

theorem State.Inv.exec_czRd_of_cut_stream (hm : m < 4 + ceil8 (s.bits k).length)
    (hbuf : v.buf = (zzFile s.ft (s.bits k)).take (2 + ((zzEntries s.ft).length + m))) :
    ∃ q, exec (.czRd j) v = faulted (v.newTable s.ft) .corruptStream (some q) ∧
      q ≤ 2 + ((zzEntries s.ft).length + m) := by
  have hpos : 2 + ((zzEntries s.ft).length + m) = (be16 s.ft.length ++ zzEntries s.ft).length + m := by
    simp [Nat.add_assoc]
  have h : Reading v s.ft.length s.ft ((be32 (s.bits k).length ++ pack (s.bits k)).take m) := by
    refine ⟨hf, ?_, hi.legal, hi.ft_length_le, hcap⟩
    rw [hbuf, hpos, zzFile, List.append_assoc _ (be32 _), List.take_length_add_append]
  rw [← Nat.add_assoc]
  exact h.exec_of_cut_stream rfl (hi.bits_length_lt k) hm

end

/-- Settles O57, by the field the image is cut in: the count, an entry, or the stream. -/
theorem truncationRaisesCorruptStream : Obligations.TruncationRaisesCorruptStream := by
  intro s t v k j m hi hexec ht hf hm hbuf hcap
  obtain ⟨-, out, rfl⟩ := exec_czWr_eq_next hexec ht
  rcases lt_or_ge m 2 with hcount | hm2
  · have hshort : v.buf.length < 2 := by rw [hbuf, List.length_take]; omega
    exact ⟨v, 0, exec_czRd_of_short hf hshort, m.zero_le, rfl, rfl, rfl, rfl⟩
  obtain ⟨m, rfl⟩ := Nat.exists_eq_add_of_le hm2
  rcases lt_or_ge m (zzEntries s.ft).length with hentries | hstream
  · obtain ⟨ft, q, hread, hq⟩ := hi.exec_czRd_of_cut_entries hf hcap (j := j) hentries hbuf
    exact ⟨v.newTable ft, q, hread, hq, rfl, rfl, rfl, rfl⟩
  · obtain ⟨m, rfl⟩ := Nat.exists_eq_add_of_le hstream
    have hlt : m < 4 + ceil8 (s.bits k).length := by
      have hlen := hm.trans_eq (zzFile_length s.ft (s.bits k))
      omega
    obtain ⟨q, hread, hq⟩ := hi.exec_czRd_of_cut_stream hf hcap (j := j) hlt hbuf
    exact ⟨v.newTable s.ft, q, hread, hq, rfl, rfl, rfl, rfl⟩

/-! ### Compressing in one block, decompressing in another (R167) -/

/-- DEC.RUN in any block that holds the table of a text and the text's codes (R154 (a)). -/
theorem exec_decRun_of_textCodes {s : State} {k : Slot} {text : List Symbol} {cb : List Bits}
    (hf : s.fault = none) (htally : Tallied text s.ft) (hcb : tableCodes s.ft = some cb)
    (hbits : s.bits k = textCodes s.ft cb text) (hcap : text.length ≤ s.txtCap) :
    ∃ t, exec (.decRun k) s = .next t ∧ t.fault = none ∧ t.txt = text := by
  obtain ⟨u, h⟩ := exists_decodeReady s
  have hemits : ∀ c ∈ text, u.Emits (codeOf s.ft cb c) c := by
    intro c hc
    rw [← h.fromTable.ft_eq]
    exact (h.treeCodes hcb).emits_codeOf h.fromTable.complete (h.fromTable.ft_eq ▸ htally.mem c hc)
  exact ⟨_, h.exec_of_codes (sym := id) hf hemits hbits hcap, hf, List.map_id _⟩

/-- Commands that end in a next state had one after the first of them. -/
theorem execSeq_cons_eq_next {i : Instr} {is : List Instr} {s t : State} (h : execSeq (i :: is) s = .next t) :
    ∃ u, exec i s = .next u ∧ execSeq is u = .next t := by
  rw [execSeq] at h
  split at h
  next u hu => exact ⟨u, hu, h⟩
  next => cases h
  next => cases h

theorem exec_kept {i : Instr} {s t : State} (h : exec i s = .next t) : Kept s t :=
  exec_keeps (kept_endStable s) (kept_refl s) (powerOn_kept s) (fun hw => pseudocode_kept i hw s) h

/-- Settles O58: the table and the bits that ENC.RUN leaves are read back, and decode to the text. -/
theorem compressDecompress : Obligations.CompressDecompress := by
  intro s t v hi hf hseq ht hvf hbuf hcap hbits htxt
  obtain ⟨r, henc, hseq'⟩ := execSeq_cons_eq_next hseq
  obtain ⟨_, hwr, hend⟩ := execSeq_cons_eq_next hseq'
  cases hend
  obtain ⟨hrf, out, rfl⟩ := exec_czWr_eq_next hwr ht
  obtain ⟨cb, htally, hcb, hcodes⟩ := exec_encRun_eq_next hf henc hrf
  obtain ⟨-, hkept⟩ := exec_kept henc
  obtain ⟨x, hread, hxft, hxbits, hxf, hxcap⟩ : ∃ x, exec (.czRd .bs0) v = .next x ∧ x.ft = r.ft ∧
      x.bits .bs0 = r.bits .bs0 ∧ x.fault = none ∧ x.txtCap = v.txtCap :=
    ⟨_, (hkept hi).exec_czRd_of_zzFile hvf (k := .bs0) hbuf hcap hbits .bs0, rfl, rfl, hvf, rfl⟩
  rw [← hxft] at htally hcb hcodes
  obtain ⟨w, hdec, hwf, hwtxt⟩ :=
    exec_decRun_of_textCodes hxf htally hcb (hxbits.trans hcodes) (hxcap ▸ htxt)
  exact ⟨w, by rw [execSeq_cons_of_next hread, execSeq_cons_of_next hdec, execSeq], hwf, hwtxt⟩

end Sys2Proof.Machine

/-! ## The buffer, text and system commands (46_buffers_system.md R175 to R184) -/

namespace Sys2Proof.Machine

/-! ### SYS.RST (R183) -/

theorem illegalWord_of_fault {s : State} (hf : s.fault ≠ none) : illegalWord s = refusedAnswer s :=
  command_of_fault hf

/-- The opcode 0x01 is that of SYS.RST alone, so its word is the only one of that opcode with a meaning. -/
theorem eq_sysRst_of_opcode {i : Instr} (h : i.opcode = 0x01#8) : i = .sysRst := by
  cases i with
  | sysRst => rfl
  | _ => simp [Instr.opcode] at h

theorem not_decode_of_malformed_reset {w : Word} (hop : w.extractLsb' 56 8 = 0x01#8)
    (hw : w ≠ 0x0100000000000000#64) (i : Instr) : decode w ≠ .ok i := by
  intro hd
  obtain rfl := eq_sysRst_of_opcode ((decodeFields_eq_ok hd).1.trans hop)
  exact hw (decode_eq_ok_iff.mp hd).symm

/-- Settles O9: a word of opcode 0x01 decodes to SYS.RST or to no command. -/
theorem resetCommand : Obligations.ResetCommand := by
  refine ⟨rfl, exec_sysRst, fun s w hf hop hw => ?_⟩
  rw [execWord]
  cases hd : decode w with
  | ok i => exact absurd hd (not_decode_of_malformed_reset hop hw i)
  | error e => exact illegalWord_of_fault hf

/-! ### SYS.RD (R35, R184) -/

theorem bitNumber_eq_toNat (b : Bool) : bitNumber b = b.toNat := by cases b <;> rfl

/-- The register that SYS.RD reads is the one of the table of R35. -/
theorem readRegister_eq_statusRegisters (s : State) (r : BitVec 8) :
    readRegister s r = (statusRegisters s)[r.toNat]?.map value := by
  rcases lt_or_ge 21 r.toNat with hr | hr
  · rw [readRegister_eq_none hr, List.getElem?_eq_none hr, Option.map_none]
  · rw [readRegister, statusRegisters, bitNumber_eq_toNat, bitNumber_eq_toNat]
    generalize r.toNat = n at hr
    interval_cases n <;> rfl

theorem exec_sysRd_of_some {s : State} {r : BitVec 8} {n : Nat} (h : (statusRegisters s)[r.toNat]? = some n) :
    exec (.sysRd r) s = answered s (value n) := by
  show execSysRd r s = _
  rw [execSysRd, readRegister_eq_statusRegisters, h]
  rfl

theorem exec_sysRd_of_gt {s : State} {r : BitVec 8} (h : 21 < r.toNat) : exec (.sysRd r) s = illegalWord s := by
  show execSysRd r s = _
  rw [execSysRd, readRegister_eq_none h]

/-- Settles O11: a number of the table reads its register, and another one is answered as a word that spells no
command. -/
theorem readStatusRegister : Obligations.ReadStatusRegister := by
  refine ⟨fun _ => rfl, fun _ => rfl, fun _ _ _ => exec_sysRd_of_some, fun s r hr => ?_⟩
  rw [exec_sysRd_of_gt hr]
  exact ⟨command_illegal, illegalWord_of_fault⟩

/-! ### Requires lines and values, as answers (R15, R74) -/

/-- A Requires line in front of a write that completes, as an answer (R15, R199 step 5). -/
theorem finish_require_done (c : Prop) [Decidable c] (s t : State) (v : Word) :
    (require c s (.done t v)).finish = if c then answered t v else faulted s .illegalCommand none := by
  by_cases h : c
  · rw [if_pos h, decide_eq_true h]
    rfl
  · rw [if_neg h, decide_eq_false h]
    rfl

/-- A response that is a shorter word, zero-extended, is the number that the word stands for (R74). -/
theorem answered_setWidth {n : Nat} (s : State) (x : BitVec n) :
    answered s (x.setWidth 64) = answered s (value x.toNat) := by rw [value, BitVec.ofNat_toNat]

section

variable {s : State} (hf : s.fault = none)
include hf

/-! ### The buffer commands (R175 to R179) -/

theorem exec_bufClr : exec .bufClr s = answered { s with buf := [] } 0#64 := exec_of_legal hf nofun rfl

theorem exec_bufPush (byte : Byte) : exec (.bufPush byte) s =
    if s.buf.length = s.bufCap then faulted s .capacityExceeded none
    else answered { s with buf := s.buf ++ [byte] } (value (s.buf.length + 1)) :=
  (exec_of_legal (i := .bufPush byte) hf nofun rfl).trans (Run.finish_ite_raised_done ..)

theorem exec_bufLd (idx : Word32) : exec (.bufLd idx) s =
    match s.buf[idx.toNat]? with
    | some b => answered s (value b.toNat)
    | none => faulted s .illegalCommand none := by
  refine (exec_of_legal (i := .bufLd idx) hf nofun rfl).trans ?_
  rw [pseudocode, loadByte, Memory.read]
  cases s.buf[idx.toNat]? with
  | some b => exact answered_setWidth s b
  | none => rfl

theorem exec_bufSt (byte : Byte) (idx : Word32) : exec (.bufSt byte idx) s =
    if idx.toNat < s.buf.length then answered { s with buf := s.buf.write idx.toNat byte } 0#64
    else faulted s .illegalCommand none :=
  (exec_of_legal (i := .bufSt byte idx) hf nofun rfl).trans (finish_require_done ..)

theorem exec_bufTrn (v : Word32) : exec (.bufTrn v) s =
    if v.toNat ≤ s.buf.length then answered { s with buf := s.buf.take v.toNat } 0#64
    else faulted s .illegalCommand none :=
  (exec_of_legal (i := .bufTrn v) hf nofun rfl).trans (finish_require_done ..)

/-! ### The text commands (R180 to R182) -/

theorem exec_txtClr : exec .txtClr s = answered { s with txt := [] } 0#64 := exec_of_legal hf nofun rfl

theorem exec_txtPush_of_scalar {sym : Symbol} (h : isScalar sym = true) : exec (.txtPush sym) s =
    if s.txt.length = s.txtCap then faulted s .capacityExceeded none
    else answered { s with txt := s.txt ++ [sym] } (value (s.txt.length + 1)) :=
  (exec_of_legal (i := .txtPush sym) hf nofun h).trans (Run.finish_ite_raised_done ..)

theorem exec_txtLd (idx : Word32) : exec (.txtLd idx) s =
    match s.txt[idx.toNat]? with
    | some c => answered s (value c.toNat)
    | none => faulted s .illegalCommand none := by
  refine (exec_of_legal (i := .txtLd idx) hf nofun rfl).trans ?_
  rw [pseudocode, loadSymbol]
  cases s.txt[idx.toNat]? with
  | some c => exact answered_setWidth s c
  | none => rfl

end

@[simp] theorem Memory.length_write (m : Memory) (a : Nat) (b : Byte) : (m.write a b).length = m.length :=
  List.length_set

/-- Settles O59, from the answer of each command and the reads of the buffer after a write. -/
theorem bufferEffect : Obligations.BufferEffect := by
  refine ⟨fun _ _ => ⟨rfl, rfl, rfl, rfl, rfl⟩, fun s byte v hf =>
    ⟨exec_bufClr hf, exec_bufPush hf byte, exec_bufLd hf v, fun hle => ?_, fun hlt => ?_, exec_bufTrn hf v⟩⟩
  · exact (exec_bufSt hf byte v).trans (if_neg hle.not_gt)
  · exact ⟨s.buf.write v.toNat byte, (exec_bufSt hf byte v).trans (if_pos hlt), Memory.length_write ..,
      Memory.read_write_same _ _ _ hlt, fun a ha => Memory.read_write_other _ _ _ _ ha⟩

/-- Settles O60, from the answer of each command; TXT.PUSH checks its operand before the capacity. -/
theorem textEffect : Obligations.TextEffect := by
  refine ⟨fun _ _ => ⟨rfl, rfl, rfl⟩, fun s sym idx hf => ⟨exec_txtClr hf, ?_, exec_txtLd hf idx⟩⟩
  by_cases hsym : isScalar sym = false
  · rw [if_pos hsym]
    exact exec_of_illegal (i := .txtPush sym) hf hsym
  · rw [if_neg hsym]
    exact exec_txtPush_of_scalar hf (Bool.eq_true_of_not_eq_false hsym)

end Sys2Proof.Machine

/-! ## Raising a fault, and the fault state (60_exceptions.md R198, R200, R201) -/

namespace Sys2Proof.Machine

/-- Settles O12, from the answer of a run that raises; the codes are read off the table of R190. -/
theorem raiseRecordsFault : Obligations.RaiseRecordsFault :=
  ⟨Run.finish_raised_eq_faulted, Run.bind_raised, fun _ => ⟨rfl, rfl⟩, rfl⟩

/-! ### The words that the fault state accepts (R200) -/

theorem decode_eq_sysRst_iff {w : Word} : decode w = .ok .sysRst ↔ w = 0x0100000000000000#64 :=
  decode_eq_ok_iff.trans eq_comm

/-- The words of SYS.RD are those of its opcode with zero must-be-zero bits; the low byte is the register
number (R71, R72). -/
theorem decode_eq_sysRd_iff {w : Word} {r : BitVec 8} : decode w = .ok (.sysRd r) ↔
    w &&& 0xFFFFFFFFFFFFFF00#64 = 0x0200000000000000#64 ∧ w.extractLsb' 0 8 = r := by
  have hsub : subR (bField w) = w.extractLsb' 0 8 := by
    ext j hj
    simp [subR, bField]
  constructor
  · intro hd
    refine ⟨(and_mask_eq_matchBits_iff_decode (op := 0x02#8) (f := .r) (by decide)).mpr ⟨_, hd, rfl⟩, ?_⟩
    obtain rfl := decode_eq_ok_iff.mp hd
    rw [← hsub, encode, bField_assemble]
    exact subR_putR r
  · rintro ⟨hm, rfl⟩
    obtain ⟨hop, hz⟩ := and_mask_eq_matchBits_iff (op := 0x02#8) (f := .r).mp hm
    rw [decode, hop, ← hsub]
    exact fits_eq_ok.mpr ⟨hz, rfl⟩

/-- A word that is neither SYS.RST nor a SYS.RD spells no command or one that the fault state refuses. -/
theorem execWord_of_fault_of_other {s : State} {w : Word} (hf : s.fault ≠ none)
    (hrst : decode w ≠ .ok .sysRst) (hrd : ∀ r, decode w ≠ .ok (.sysRd r)) : execWord w s = refusedAnswer s := by
  rw [execWord]
  cases hd : decode w with
  | error e => exact illegalWord_of_fault hf
  | ok i =>
    have hi : i ≠ .sysRst := by rintro rfl; exact hrst hd
    have hj : ∀ r, i ≠ .sysRd r := by rintro r rfl; exact hrd r hd
    exact (exec_eq_command i s hi hj).trans (command_of_fault hf)

/-- Settles O7: a word is SYS.RST, or SYS.RD of a register that exists or not, or it is refused. -/
theorem faultStateRefuses : Obligations.FaultStateRefuses := by
  intro s k w hk
  have hf : s.fault ≠ none := Option.ne_none_iff_exists'.mpr ⟨k, hk⟩
  by_cases hrst : w = 0x0100000000000000#64
  · rw [if_pos hrst, execWord_of_decode (decode_eq_sysRst_iff.mpr hrst)]
  rw [if_neg hrst]
  by_cases hrd : w &&& 0xFFFFFFFFFFFFFF00#64 = 0x0200000000000000#64
  · rw [if_pos hrd, execWord_of_decode (decode_eq_sysRd_iff.mpr ⟨hrd, rfl⟩)]
    cases hr : (statusRegisters s)[(w.extractLsb' 0 8).toNat]? with
    | some n => exact exec_sysRd_of_some hr
    | none => rw [exec_sysRd_of_gt (List.getElem?_eq_none_iff.mp hr), illegalWord_of_fault hf]
  · rw [if_neg hrd]
    exact execWord_of_fault_of_other hf (mt decode_eq_sysRst_iff.mp hrst)
      fun r hd => hrd (decode_eq_sysRd_iff.mp hd).1

/-! ### The fault state is final (R201) -/

/-- No word but the reset word does more in the fault state than give one response (R200). -/
theorem execWord_of_fault {s : State} {w : Word} (hf : s.fault ≠ none) (hw : w ≠ 0x0100000000000000#64) :
    ∃ r : Response, execWord w s = .next { s with out := s.out ++ [r] } := by
  cases hd : decode w with
  | error e => exact ⟨⟨.refused, 0#64⟩, by rw [execWord, hd]; exact illegalWord_of_fault hf⟩
  | ok i =>
    have hi : i ≠ .sysRst := by rintro rfl; exact hw (decode_eq_sysRst_iff.mp hd)
    obtain ⟨st, v, he⟩ := exec_of_fault hf hi
    exact ⟨⟨st, v⟩, (execWord_of_decode hd s).trans he⟩

theorem stepN_succ_of_next {s t : State} (n : Nat) (h : step s = .next t) : stepN (n + 1) s = stepN n t := by
  rw [stepN, h]

/-- The words of a queue without the reset word, taken one after another in the fault state. -/
theorem stepN_of_fault (ws : List Word) (s : State) (hf : s.fault ≠ none)
    (hws : ∀ w ∈ ws, w ≠ 0x0100000000000000#64) :
    ∃ log : List Response, log.length = ws.length ∧
      stepN ws.length { s with cmds := ws } = .next { s with cmds := [], out := s.out ++ log } := by
  induction ws generalizing s with
  | nil => exact ⟨[], rfl, by rw [List.append_nil]; rfl⟩
  | cons w rest ih =>
    obtain ⟨hw, hrest⟩ := List.forall_mem_cons.mp hws
    obtain ⟨r, hr⟩ := execWord_of_fault (s := { s with cmds := rest }) hf hw
    have hstep : step { s with cmds := w :: rest } = .next { s with cmds := rest, out := s.out ++ [r] } :=
      (step_of_cmds_cons rfl).trans hr
    obtain ⟨log, hlen, hlog⟩ := ih { s with out := s.out ++ [r] } hf hrest
    refine ⟨r :: log, congrArg (· + 1) hlen, ?_⟩
    rw [List.append_cons s.out r log]
    exact (stepN_succ_of_next _ hstep).trans hlog

/-- Settles O8, by induction on the queue: each word leaves the fault state as it is. -/
theorem faultStateIsFinal : Obligations.FaultStateIsFinal := fun s => stepN_of_fault s.cmds s

end Sys2Proof.Machine

/-! ## No command stops (70_reset_and_hazards.md R220)

A run ends when it comes to its end or to a `raise`. Most pseudocode ends from every state; what a merge, CB.DRV,
ENC.SYM and a bit of the decoder reach for is there because of the invariants R38 to R41. -/

namespace Sys2Proof.Machine

/-- The pseudocode is done or takes a fault; it reaches for nothing that does not exist. -/
def Run.Ends {α : Type} (r : Run α) : Prop :=
  match r with
  | .done _ _ => True
  | .raised _ _ _ => True
  | .stuck _ => False

section
variable {α β : Type} {r : Run α} {f : State → α → Run β}

/-- The second part may rest on whatever the first part leaves. -/
theorem Run.Ends.bind_of_sat {post : State → α → Prop} {exc : State → Prop} (hr : r.Ends)
    (hpost : r.Sat post exc) (hf : ∀ t a, post t a → (f t a).Ends) : (r.bind f).Ends := by
  cases r with
  | done t a => exact hf t a hpost
  | raised t k p => trivial
  | stuck e => exact hr.elim

theorem Run.Ends.bind (hr : r.Ends) (hf : ∀ t a, (f t a).Ends) : (r.bind f).Ends := by
  cases r with
  | done t a => exact hf t a
  | raised t k p => trivial
  | stuck e => exact hr.elim

theorem require_ends {c : Bool} {s : State} (hr : c = true → r.Ends) : (require c s r).Ends := by
  cases c with
  | true => exact hr rfl
  | false => trivial

theorem Run.Ends.exists_finish {r : Run Word} (hr : r.Ends) : ∃ t, r.finish = .next t := by
  cases r with
  | done t v => exact ⟨_, rfl⟩
  | raised t k p => exact ⟨_, rfl⟩
  | stuck e => exact hr.elim

end

/-! ### Pseudocode that ends from every state -/

section
variable (k : Slot) (s : State)

theorem appendBit_ends (v : Bool) : (appendBit k v s).Ends := by
  rcases appendBit_cases k v s with ⟨-, e⟩ | ⟨-, e⟩ <;> rw [e] <;> trivial

theorem appendBits_ends (bs : Bits) : (appendBits k bs s).Ends := by
  induction bs generalizing s with
  | nil => trivial
  | cons v vs ih => exact (appendBit_ends k s v).bind fun t _ => ih t

theorem thenLen_ends {r : Run Unit} (hr : r.Ends) : (thenLen k r).Ends := hr.bind fun _ _ => trivial

theorem fromBytes_ends (B : List Byte) (n : Nat) (pos : Option Nat) : (fromBytes k B n pos s).Ends := by
  rcases fromBytes_cases k B n pos s with ⟨-, e⟩ | ⟨-, -, e⟩ | ⟨-, -, e⟩ <;> rw [e] <;> trivial

theorem appendOperand_ends (v : Word32) : (appendOperand k v s).Ends := by
  unfold appendOperand
  cases bitOperand v with
  | none => trivial
  | some b => exact thenLen_ends k (appendBit_ends k s b)

theorem getBit_ends (idx : Word32) : (getBit k idx s).Ends := by
  unfold getBit
  split <;> trivial

theorem toBytes_ends : (toBytes k s).Ends := by
  unfold toBytes
  split <;> trivial

theorem nextBit_ends : (nextBit k s).Ends := by
  unfold nextBit
  split <;> trivial

theorem pushByte_ends (byte : Byte) : (pushByte byte s).Ends := by
  unfold pushByte
  split <;> trivial

theorem loadByte_ends (idx : Word32) : (loadByte idx s).Ends := by
  unfold loadByte
  split <;> trivial

theorem pushSymbol_ends (sym : Symbol) : (pushSymbol sym s).Ends := by
  unfold pushSymbol
  split <;> trivial

theorem loadSymbol_ends (idx : Word32) : (loadSymbol idx s).Ends := by
  unfold loadSymbol
  split <;> trivial

theorem readEntry_ends (idx : Word32) (f : Entry → Word) : (readEntry idx f s).Ends := by
  unfold readEntry
  split <;> trivial

theorem readNode_ends (idx : Word32) (f : Node → Option Word) : (readNode idx f s).Ends := by
  unfold readNode
  split
  next => trivial
  next => split <;> trivial

theorem putEntry_ends (sym : Symbol) (cnt : Word32) : (putEntry sym cnt s).Ends := by
  rcases putEntry_cases sym cnt s with ⟨-, e⟩ | ⟨-, e⟩ <;> rw [e] <;> trivial

theorem countSymbol_ends (sym : Symbol) : (countSymbol sym s).Ends := by
  rcases countSymbol_cases sym s with ⟨_, _, -, -, -, e⟩ | ⟨-, -, e⟩ | e <;> rw [e] <;> trivial

theorem countText_ends (text : List Symbol) : (countText text s).Ends := by
  induction text generalizing s with
  | nil => trivial
  | cons c cs ih => exact (countSymbol_ends s c).bind fun t _ => ih t

theorem writeFile_ends : (writeFile k s).Ends := by
  unfold writeFile
  dsimp only
  split <;> trivial

theorem need_ends (n p : Nat) : (need n p s).Ends := by
  rcases need_cases n p s with ⟨-, e⟩ | ⟨-, e⟩ <;> rw [e] <;> trivial

theorem readFileEntry_ends (p : Nat) : (readFileEntry p s).Ends := by
  refine (need_ends s 2 p).bind fun s _ => ?_
  dsimp only
  split
  next => trivial
  next =>
    refine (need_ends s _ _).bind fun s _ => ?_
    split
    next => trivial
    next sym _ =>
      refine (need_ends s _ _).bind fun s _ => ?_
      split
      next => trivial
      next => exact (putEntry_ends s sym _).bind fun _ _ => trivial

theorem readFileEntries_ends (n p : Nat) : (readFileEntries n p s).Ends := by
  induction n generalizing s p with
  | zero => trivial
  | succ n ih => exact (readFileEntry_ends s p).bind fun t q => ih t q

theorem readFile_ends : (readFile k s).Ends :=
  (need_ends s 2 0).bind fun s _ =>
    (readFileEntries_ends (clearTable s) _ 2).bind fun s p =>
      (need_ends s 4 p).bind fun s _ => (fromBytes_ends k s _ _ _).bind fun _ _ => trivial

theorem checkEnd_ends : (checkEnd s).Ends := by
  unfold checkEnd
  split <;> trivial

theorem emit_ends (e : Option Symbol) : (emit e s).Ends := by
  cases e with
  | none => trivial
  | some sym => exact (pushSymbol_ends s sym).bind fun _ _ => trivial

/-- The merges of HT.BLD stay within their bound on every table (R124, R220). -/
theorem buildTree_ends : (buildTree s).Ends := by
  obtain ⟨t, ht, -⟩ := buildTree_done s
  rw [ht]
  trivial

/-- Every character of the text has been counted, so it has a code (R143). -/
theorem encodeRun_ends : (encodeRun k s).Ends := by
  cases hcount : countText s.txt (clearTable s) with
  | done u a =>
    obtain ⟨t, cb, hready⟩ := exists_encodeReady hcount
    rw [hready.encodeRun_eq]
    exact (appendBits_ends k _ _).bind fun _ _ => trivial
  | raised u f p =>
    rw [encodeRun, hcount]
    trivial
  | stuck e =>
    have hends := countText_ends (clearTable s) s.txt
    rw [hcount] at hends
    exact hends.elim

end

/-! ### Pseudocode that rests on the invariants -/

section
variable {s : State}

/-- Two trees at least are in the queue while the tree is under way (R40, R123). -/
theorem State.TreeUnderWay.mergeStep_ends (h : s.TreeUnderWay) : (mergeStep s).Ends := by
  obtain ⟨hpq, -⟩ := h
  obtain ⟨t, v, ht⟩ := exists_mergeStep_done hpq
  rw [ht]
  trivial

/-- A complete tree has a codebook (R140). -/
theorem State.TreeComplete.deriveCodebook_ends (h : s.TreeComplete) : (deriveCodebook s).Ends := by
  obtain ⟨cb, hcb⟩ := h.exists_codesOf_ok
  rw [deriveCodebook, hcb]
  trivial

/-- A valid codebook has a place for every entry (R41, R144). -/
theorem State.Inv.cb_length (hi : s.Inv) (hv : s.cvalid = true) : s.cb.length = s.ft.length :=
  (codebookPrefixFree s hi hv).1

theorem State.Inv.encodeSymbol_ends (hi : s.Inv) (hv : s.cvalid = true) (k : Slot) (sym : Symbol)
    (pos : Option Nat) : (encodeSymbol k sym pos s).Ends := by
  cases hfind : findSym s.ft sym with
  | none =>
    rw [encodeSymbol_of_miss (findSym_eq_none.mp hfind)]
    trivial
  | some i =>
    obtain ⟨hlt, -⟩ := findSym_eq_some.mp hfind
    rw [encodeSymbol_of_code hfind (List.getElem?_eq_getElem (hi.cb_length hv ▸ hlt))]
    exact appendBits_ends k s _

/-- The walk of a tree of two or more nodes stands at an internal node, whose children exist; the one node of
a smaller tree is a leaf (R40, R41, R151). -/
theorem State.TreeComplete.decodeBit_ends (h : s.TreeComplete) (v : Bool) : (decodeBit v s).Ends := by
  have hlen := h.nd_length
  rcases Nat.lt_or_ge s.ft.length 2 with hlt | hn
  · have hnd := h.nd_eq_leaves (by omega)
    match hft : s.ft with
    | [] =>
      rw [hft] at hnd
      rw [decodeBit_of_nil v hnd]
      trivial
    | [e] =>
      rw [hft] at hnd
      rw [decodeBit_of_lone v hnd]
      trivial
    | _ :: _ :: _ => simp [hft] at hlt
  · obtain ⟨-, -, hwalk, -, hforest⟩ := h
    obtain ⟨f, l, r, hw⟩ := isInternal_iff.mp (hwalk (by omega))
    obtain ⟨-, hl, hr⟩ := hforest.of_internal hw
    have hwlt := (List.getElem?_eq_some_iff.mp hw).1
    have hc : (if v then r else l) < s.nd.length := by split <;> omega
    cases hx : s.nd[if v then r else l]'hc with
    | leaf sym g =>
      rw [decodeBit_to_leaf (by omega) hw rfl (List.getElem?_eq_some_iff.mpr ⟨hc, hx⟩)]
      trivial
    | internal g l' r' =>
      rw [decodeBit_to_internal (by omega) hw rfl
        (isInternal_iff.mpr ⟨g, l', r', List.getElem?_eq_some_iff.mpr ⟨hc, hx⟩⟩)]
      trivial

theorem State.TreeComplete.decodeOperand_ends (h : s.TreeComplete) (v : Word32) :
    (decodeOperand v s).Ends := by
  unfold decodeOperand
  cases bitOperand v with
  | none => trivial
  | some b => exact (h.decodeBit_ends b).bind fun _ _ => trivial

/-- The tree stays complete from bit to bit (R153). -/
theorem State.Inv.decodeBits_ends (hi : s.Inv) (hv : s.tst = .valid) (bs : Bits) : (decodeBits bs s).Ends := by
  induction bs generalizing s with
  | nil => trivial
  | cons v vs ih =>
    refine ((hi.treeInv.complete hv).decodeBit_ends v).bind_of_sat (decodeBit_kept (kept_refl s) hv v) ?_
    rintro t e ⟨⟨ht, htv⟩, he⟩
    refine (emit_ends t e).bind_of_sat (emit_kept ht htv he) ?_
    rintro u - ⟨hu, huv⟩
    exact ih (hu.2 hi) huv

theorem State.Inv.decodeRun_ends (hi : s.Inv) (k : Slot) : (decodeRun k s).Ends := by
  refine (buildTree_ends s).bind_of_sat (buildTree_kept (kept_refl s)) ?_
  rintro t - ⟨ht, hv⟩
  exact (State.Inv.decodeBits_ends (ht.clearTxt.2 hi) hv _).bind fun u _ =>
    (checkEnd_ends u).bind fun _ _ => trivial

/-! ### Every command -/

theorem State.Inv.pseudocode_ends (hi : s.Inv) (i : Instr) : (pseudocode i s).Ends := by
  cases i with
  | sysRst => trivial
  | sysRd r =>
    unfold pseudocode
    dsimp only
    split <;> trivial
  | ftClr => trivial
  | ftCnt sym => exact countSymbol_ends s sym
  | ftPut sym v => exact putEntry_ends s sym v
  | ftSym idx => exact readEntry_ends s idx _
  | ftFrq idx => exact readEntry_ends s idx _
  | bsClr k => trivial
  | bsApp k v => exact appendOperand_ends k s v
  | bsExt k j => exact thenLen_ends k (appendBits_ends k s _)
  | bsGet k idx => exact getBit_ends k s idx
  | bsTob k => exact toBytes_ends k s
  | bsFrb k v => exact thenLen_ends k (fromBytes_ends k s _ _ _)
  | bsFrba k => exact thenLen_ends k (fromBytes_ends k s _ _ _)
  | bsEq k j => trivial
  | bsHash k => trivial
  | bsRwd k => trivial
  | bsNxt k => exact nextBit_ends k s
  | bufClr => trivial
  | bufPush byte => exact pushByte_ends s byte
  | bufLd idx => exact loadByte_ends s idx
  | bufSt byte idx => exact require_ends fun _ => trivial
  | bufTrn v => exact require_ends fun _ => trivial
  | txtClr => trivial
  | txtPush sym => exact pushSymbol_ends s sym
  | txtLd idx => exact loadSymbol_ends s idx
  | htIni => trivial
  | htMrg => exact require_ends fun hb => (hi.treeInv.underWay (isBuilding_iff.mp hb)).mergeStep_ends
  | htBld => exact (buildTree_ends s).bind fun _ _ => trivial
  | htDis => trivial
  | htNdk idx => exact readNode_ends s idx _
  | htNdf idx => exact readNode_ends s idx fun nd => some (num nd.freq)
  | htNdl idx => exact readNode_ends s idx _
  | htNdr idx => exact readNode_ends s idx _
  | cbDrv =>
    exact require_ends fun hv =>
      (hi.treeInv.complete (hasTree_iff.mp hv)).deriveCodebook_ends.bind fun _ _ => trivial
  | encSym k sym => exact require_ends fun hv => thenLen_ends k (hi.encodeSymbol_ends hv k sym none)
  | encRun k => exact encodeRun_ends k s
  | decRst => exact require_ends fun _ => trivial
  | decBit v =>
    exact require_ends fun hv => (hi.treeInv.complete (hasTree_iff.mp hv)).decodeOperand_ends v
  | decEnd => exact require_ends fun _ => (checkEnd_ends s).bind fun _ _ => trivial
  | decRun k => exact hi.decodeRun_ends k
  | czWr k => exact writeFile_ends k s
  | czRd k => exact readFile_ends k s

theorem illegalWord_next (s : State) : ∃ t, illegalWord s = .next t := by
  by_cases hf : s.fault = none
  · exact ⟨_, command_illegal hf⟩
  · exact ⟨_, illegalWord_of_fault hf⟩

theorem State.Inv.exec_next (hi : s.Inv) (i : Instr) : ∃ t, exec i s = .next t := by
  by_cases hrst : i = .sysRst
  · subst hrst
    exact ⟨_, exec_sysRst s⟩
  by_cases hf : s.fault = none
  · rw [exec_of_ok hf hrst]
    exact (require_ends fun _ => hi.pseudocode_ends i).exists_finish
  · obtain ⟨st, v, he⟩ := exec_of_fault hf hrst
    exact ⟨_, he⟩

theorem State.Inv.execWord_next (hi : s.Inv) (w : Word) : ∃ t, execWord w s = .next t := by
  unfold execWord
  cases decode w with
  | ok i => exact hi.exec_next i
  | error e => exact illegalWord_next s

end

/-- Settles O17: the word presented next is a command whose pseudocode ends, or is answered as an illegal one. -/
theorem stepNeverStops : Obligations.StepNeverStops := by
  intro s hi
  cases hcmds : s.cmds with
  | nil => exact ⟨s, step_of_cmds_nil hcmds⟩
  | cons w rest =>
    rw [step_of_cmds_cons hcmds]
    exact (hi.setCmds rest).execWord_next w

end Sys2Proof.Machine
